-- ==== Sys2Proof/Word.lean ====
section
/-! DEFINITION. The words of the block: bytes, 16-bit pointers, 48-bit requests, 12-bit colours. -/

namespace Sys2Proof

/-- One byte of FB, GLYPH, HMEM or Transport, unsigned (R33). -/
abbrev Byte := BitVec 8

/-- A 16-bit pointer or index operand (R41, R42). -/
abbrev Ptr := BitVec 16

/-- A request word, bit 47 the most significant (R41). -/
abbrev Request := BitVec 48

/-- A 12-bit RGB444 colour (R66). -/
abbrev Colour := BitVec 12

end Sys2Proof
end

