-- ==== Sys2Proof/Syntax.lean ====
section
/-! DEFINITION. The operations: one constructor per row of spec/opcode_table.json, with the operands of R42. -/

namespace Sys2Proof

/-- The eighteen rows of the opcode table (R43). Operands are the request fields themselves, unscaled (R42). -/
inductive Instr where
  /-- `PXSET x, y, v` (R55). -/
  | pxset (x y v : Byte)
  /-- `PXCLR x, y` (R56). -/
  | pxclr (x y : Byte)
  /-- `PXGET x, y` (R57). -/
  | pxget (x y : Byte)
  /-- `FBWR idx, val` (R58): `val` is field a, `idx` field p. -/
  | fbwr (val : Byte) (idx : Ptr)
  /-- `FBRD idx` (R59). -/
  | fbrd (idx : Ptr)
  /-- `SETWIN x, y, w, h` (R62). -/
  | setwin (x y w h : Byte)
  /-- `RSTWIN` (R64). -/
  | rstwin
  /-- `STREAM NONE` (R71), mode 0. -/
  | streamNone
  /-- `STREAM FB` (R71), mode 1. -/
  | streamFb
  /-- `STREAM HMEM, addr` (R71), mode 2. -/
  | streamHmem (addr : Ptr)
  /-- `PUTCHAR c` (R77): the character code, in request field a. -/
  | putchar (code : Byte)
  /-- `PUTSTR addr` (R79). -/
  | putstr (addr : Ptr)
  /-- `SETCUR cx, cy` (R80). -/
  | setcur (cx cy : Byte)
  /-- `CLEAR` (R81). -/
  | clear
  /-- `IMPBMP xpos, ypos, addr, thr` (R93), in the order of the request fields a, b, c, p. -/
  | impbmp (xpos ypos thr : Byte) (addr : Ptr)
  /-- `INIT` (R96). -/
  | init
  /-- `DRAWFULL addr` (R97). -/
  | drawfull (addr : Ptr)
  /-- `DISPBUF` (R98). -/
  | dispbuf
deriving DecidableEq, Repr

end Sys2Proof
end

