-- ==== Sys2Proof/WellFormed.lean ====
section
/-! DEFINITION. Which terms of `Instr` some legal request word stands for. -/

namespace Sys2Proof

/-- R44 clause 3: `v` of PXSET is 0 or 1. Every other operand may hold any value of its field (R42); the range checks on
operand values are the operations' own (R44, last paragraph). -/
def Instr.wellFormed (i : Instr) : Bool :=
  match i with
  | .pxset _ _ v => decide (v.toNat ≤ 1)
  | .pxclr _ _ => true
  | .pxget _ _ => true
  | .fbwr _ _ => true
  | .fbrd _ => true
  | .setwin _ _ _ _ => true
  | .rstwin => true
  | .streamNone => true
  | .streamFb => true
  | .streamHmem _ => true
  | .putchar _ => true
  | .putstr _ => true
  | .setcur _ _ => true
  | .clear => true
  | .impbmp _ _ _ _ => true
  | .init => true
  | .drawfull _ => true
  | .dispbuf => true

end Sys2Proof
end

