-- ==== Sys2Proof/Decode.lean ====
section
/-! DEFINITION. The request word (R41 to R46): its fields, the decoder, the encoder, and the opcode table's rows. -/

namespace Sys2Proof

/-! ### Fields of a request word (R41) -/

/-- Bits 47:40. -/
def Request.op (w : Request) : Byte := w.extractLsb' 40 8
/-- Bits 39:32. -/
def Request.a (w : Request) : Byte := w.extractLsb' 32 8
/-- Bits 31:24. -/
def Request.b (w : Request) : Byte := w.extractLsb' 24 8
/-- Bits 23:16. -/
def Request.c (w : Request) : Byte := w.extractLsb' 16 8
/-- Bits 15:8. -/
def Request.d (w : Request) : Byte := w.extractLsb' 8 8
/-- Bits 7:0. -/
def Request.e (w : Request) : Byte := w.extractLsb' 0 8
/-- Bits 15:0, the pointer operand `p = d:e`. -/
def Request.p (w : Request) : Ptr := w.extractLsb' 0 16

/-- The word written as the six bytes `op a b c d e`, `op` the most significant (R41). -/
def Request.ofBytes (op a b c d e : Byte) : Request := op ++ a ++ b ++ c ++ d ++ e

/-- The word of a format whose last field is the pointer `p`. -/
def Request.ofPtr (op a b c : Byte) (p : Ptr) : Request := op ++ a ++ b ++ c ++ p

/-! ### Decoding (R43, R44) -/

/-- Why a word is illegal: the five clauses of R44. All five have the same outcome, status 4; which name is given where
two clauses hold is not observable (log 14). -/
inductive Illegal where
  /-- Clause 1: `op` is none of the sixteen values of R43. -/
  | unknownOp
  /-- Clause 2: a field reserved in the operation's format is not zero. -/
  | reservedField
  /-- Clause 3: PXSET with `c > 1`. -/
  | pxsetValue
  /-- Clause 4: STREAM with `a > 2`. -/
  | streamMode
  /-- Clause 5: STREAM NONE or STREAM FB with `p` not zero. -/
  | streamPointer
deriving DecidableEq, Repr

/-- What the decoder makes of a word: one operation with its operands, or illegal (R44, "The decoder is total"). -/
inductive Decoded where
  | legal (i : Instr)
  | illegal (why : Illegal)
deriving DecidableEq, Repr

/-- `i`, if the fields its format does not use are zero (R44 clause 2). -/
def Decoded.ifReservedZero (unused : List Byte) (i : Instr) : Decoded :=
  if unused.all (· == 0) then .legal i else .illegal .reservedField

/-- STREAM (R71): the mode is field a; b and c are reserved, and p is too unless the mode is HMEM (R44 clauses 2, 4, 5). -/
def decodeStream (w : Request) : Decoded :=
  match w.a.toNat with
  | 0 => if w.p = 0 then .ifReservedZero [w.b, w.c] .streamNone else .illegal .streamPointer
  | 1 => if w.p = 0 then .ifReservedZero [w.b, w.c] .streamFb else .illegal .streamPointer
  | 2 => .ifReservedZero [w.b, w.c] (.streamHmem w.p)
  | _ => .illegal .streamMode

/-- PXSET (R55): `d` and `e` are reserved, and `c` is 0 or 1 (R44 clauses 2, 3). -/
def decodePxset (w : Request) : Decoded :=
  if w.c.toNat ≤ 1 then .ifReservedZero [w.d, w.e] (.pxset w.a w.b w.c) else .illegal .pxsetValue

/-- The decoder (R43, R44): total, and refusing by name. -/
def decode (w : Request) : Decoded :=
  match w.op.toNat with
  | 0x10 => decodePxset w
  | 0x11 => .ifReservedZero [w.c, w.d, w.e] (.pxclr w.a w.b)
  | 0x12 => .ifReservedZero [w.c, w.d, w.e] (.pxget w.a w.b)
  | 0x13 => .ifReservedZero [w.b, w.c] (.fbwr w.a w.p)
  | 0x14 => .ifReservedZero [w.a, w.b, w.c] (.fbrd w.p)
  | 0x20 => .ifReservedZero [w.e] (.setwin w.a w.b w.c w.d)
  | 0x21 => .ifReservedZero [w.a, w.b, w.c, w.d, w.e] .rstwin
  | 0x30 => decodeStream w
  | 0x40 => .ifReservedZero [w.b, w.c, w.d, w.e] (.putchar w.a)
  | 0x41 => .ifReservedZero [w.a, w.b, w.c] (.putstr w.p)
  | 0x42 => .ifReservedZero [w.c, w.d, w.e] (.setcur w.a w.b)
  | 0x43 => .ifReservedZero [w.a, w.b, w.c, w.d, w.e] .clear
  | 0x50 => .legal (.impbmp w.a w.b w.c w.p)
  | 0x60 => .ifReservedZero [w.a, w.b, w.c, w.d, w.e] .init
  | 0x61 => .ifReservedZero [w.a, w.b, w.c] (.drawfull w.p)
  | 0x62 => .ifReservedZero [w.a, w.b, w.c, w.d, w.e] .dispbuf
  | _ => .illegal .unknownOp

/-- The instruction read from the low `nbits` bits of `w`, which spec/opcode_table.json numbers as the request word
itself (bit 0 the least significant of the 48). A number that does not fit 48 bits is no request (R46, log 15). -/
def decodeTableWord (nbits w : Nat) : Option Instr :=
  if w % 2 ^ nbits < 2 ^ 48 then
    match decode (BitVec.ofNat 48 (w % 2 ^ nbits)) with
    | .legal i => some i
    | .illegal _ => none
  else none

/-! ### Encoding (R41 to R43) -/

/-- The request word of an operation: its fields in their places, every field its format does not use zero. -/
def encode (i : Instr) : Request :=
  match i with
  | .pxset x y v => .ofBytes 0x10 x y v 0 0
  | .pxclr x y => .ofBytes 0x11 x y 0 0 0
  | .pxget x y => .ofBytes 0x12 x y 0 0 0
  | .fbwr val idx => .ofPtr 0x13 val 0 0 idx
  | .fbrd idx => .ofPtr 0x14 0 0 0 idx
  | .setwin x y w h => .ofBytes 0x20 x y w h 0
  | .rstwin => .ofBytes 0x21 0 0 0 0 0
  | .streamNone => .ofPtr 0x30 0 0 0 0
  | .streamFb => .ofPtr 0x30 1 0 0 0
  | .streamHmem addr => .ofPtr 0x30 2 0 0 addr
  | .putchar code => .ofBytes 0x40 code 0 0 0 0
  | .putstr addr => .ofPtr 0x41 0 0 0 addr
  | .setcur cx cy => .ofBytes 0x42 cx cy 0 0 0
  | .clear => .ofBytes 0x43 0 0 0 0 0
  | .impbmp xpos ypos thr addr => .ofPtr 0x50 xpos ypos thr addr
  | .init => .ofBytes 0x60 0 0 0 0 0
  | .drawfull addr => .ofPtr 0x61 0 0 0 addr
  | .dispbuf => .ofBytes 0x62 0 0 0 0 0

/-! ### The opcode table -/

/-- One row of spec/opcode_table.json: a word `w` is of the row when `w &&& mask = pattern`. -/
structure OpcodeRow where
  pattern : Request
  mask : Request
deriving DecidableEq, Repr

/-- The row of spec/opcode_table.json each constructor stands for (its "match" and "mask"). -/
def Instr.row (i : Instr) : OpcodeRow :=
  match i with
  | .pxset _ _ _ => ⟨0x100000000000, 0xFF0000FEFFFF⟩
  | .pxclr _ _ => ⟨0x110000000000, 0xFF0000FFFFFF⟩
  | .pxget _ _ => ⟨0x120000000000, 0xFF0000FFFFFF⟩
  | .fbwr _ _ => ⟨0x130000000000, 0xFF00FFFF0000⟩
  | .fbrd _ => ⟨0x140000000000, 0xFFFFFFFF0000⟩
  | .setwin _ _ _ _ => ⟨0x200000000000, 0xFF00000000FF⟩
  | .rstwin => ⟨0x210000000000, 0xFFFFFFFFFFFF⟩
  | .streamNone => ⟨0x300000000000, 0xFFFFFFFFFFFF⟩
  | .streamFb => ⟨0x300100000000, 0xFFFFFFFFFFFF⟩
  | .streamHmem _ => ⟨0x300200000000, 0xFFFFFFFF0000⟩
  | .putchar _ => ⟨0x400000000000, 0xFF00FFFFFFFF⟩
  | .putstr _ => ⟨0x410000000000, 0xFFFFFFFF0000⟩
  | .setcur _ _ => ⟨0x420000000000, 0xFF0000FFFFFF⟩
  | .clear => ⟨0x430000000000, 0xFFFFFFFFFFFF⟩
  | .impbmp _ _ _ _ => ⟨0x500000000000, 0xFF0000000000⟩
  | .init => ⟨0x600000000000, 0xFFFFFFFFFFFF⟩
  | .drawfull _ => ⟨0x610000000000, 0xFFFFFFFF0000⟩
  | .dispbuf => ⟨0x620000000000, 0xFFFFFFFFFFFF⟩

/-- The rows of spec/opcode_table.json, in its order. -/
def opcodeTable : List OpcodeRow :=
  [Instr.row (.pxset 0 0 0), Instr.row (.pxclr 0 0), Instr.row (.pxget 0 0), Instr.row (.fbwr 0 0), Instr.row (.fbrd 0),
    Instr.row (.setwin 0 0 0 0)]
  ++ [Instr.row .rstwin, Instr.row .streamNone, Instr.row .streamFb, Instr.row (.streamHmem 0), Instr.row (.putchar 0),
    Instr.row (.putstr 0)]
  ++ [Instr.row (.setcur 0 0), Instr.row .clear, Instr.row (.impbmp 0 0 0 0), Instr.row .init, Instr.row (.drawfull 0),
    Instr.row .dispbuf]

/-- The word is of this row. -/
def OpcodeRow.covers (r : OpcodeRow) (w : Request) : Bool := w &&& r.mask == r.pattern

end Sys2Proof
end

