-- ==== Sys2Proof/Config.lean ====
section
/-! DEFINITION. Transport items, the open parameters of R5, and the free values. Every `opaque` here has no body: a
statement about it holds whatever the value is. -/

namespace Sys2Proof

/-- The kind of a Transport item (R23): `command` is the source's SendCommand, `data` its SendData. -/
inductive TxKind where
  | command
  | data
deriving DecidableEq, Repr, Inhabited

/-- One Transport item, a pair (kind, byte) (R23). -/
structure TxItem where
  kind : TxKind
  byte : Byte
deriving DecidableEq, Repr, Inhabited

/-- The open parameters of R5 and of the table at the end of 92_eei_decisions.md. The bounds of the two offsets are
the constraint `X_OFS + 83 <= 65535`, `Y_OFS + 47 <= 65535` of R5. -/
structure Config where
  /-- GLYPH: `glyph g k` is column `k` of the glyph of code `0x20 + g` (R73). -/
  glyph : Fin 96 → Fin 5 → Byte
  /-- X_OFS, at most 65452. -/
  xOfs : Fin 65453
  /-- Y_OFS, at most 65488. -/
  yOfs : Fin 65489
  /-- CMD_CASET, the column-range-set command byte (R61). -/
  cmdCaset : Byte
  /-- CMD_RASET, the row-range-set command byte (R61). -/
  cmdRaset : Byte
  /-- CMD_RAMWR, the memory-write-begin command byte (R61). -/
  cmdRamwr : Byte
  /-- INIT_TX, what the excluded bring-up code sends (R96). -/
  initTx : List TxItem
  /-- DRAWFULL_RESETS_CURSOR (R97, R98). -/
  drawfullResetsCursor : Bool
deriving Inhabited

/-- The configuration of the chip that runs: nothing is known of it (DESIGN CHOICE, safe, log 4). -/
opaque Config.chip : Config

/-- Byte `k` of FB after the reset numbered `n`: unspecified by R28, so a free value (safe, log 1). -/
opaque Config.fbAtReset : Nat → Nat → Byte

end Sys2Proof
end

