-- ==== Sys2Proof/Machine/State.lean ====
section
/-! DEFINITION. Everything the spec gives the block (R10, R23, R24), what the host still has to do, and the state after
reset (R26 to R29). -/

namespace Sys2Proof.Machine

/-- The framebuffer: 504 bytes, "size fixed at construction" (R21, log 9). -/
abbrev Framebuffer := Vector Byte 504

/-- Host memory, as (address, byte) pairs; `Memory.wf` in Machine/Ops.lean says the one canonical form (R24, log 3). -/
abbrev Memory := List Host.Cell

/-- The status of a response (R45). Status 3 is named by the spec and never produced (R104). -/
inductive Status where
  | ok
  | geometryError
  | glyphRangeError
  | transportError
  | illegalRequest
  | addressError
deriving DecidableEq, Repr

/-- One response (R45); its 16-bit word is `Response.word` in Machine/Flags.lean. -/
structure Response where
  status : Status
  data : Byte
deriving DecidableEq, Repr

/-- One move of the world outside, made between two operations (log 5, log 7). -/
inductive HostMove where
  /-- The host issues a request (R4, R13). -/
  | request (w : Request)
  /-- The host, who owns HMEM, writes one byte of it (R24). -/
  | hmemWrite (addr : Ptr) (b : Byte)
  /-- The block is reset (R113). -/
  | reset
deriving DecidableEq, Repr

/-- The whole state. The first five fields are the block's own (R10). -/
structure State where
  /-- FB (R21). -/
  fb : Framebuffer
  /-- CUR_X (R14). -/
  curX : Byte
  /-- CUR_Y (R15). -/
  curY : Byte
  /-- WIN_W (R16). -/
  winW : Byte
  /-- WIN_H (R17). -/
  winH : Byte
  /-- TX, every item sent so far, oldest first (R23). -/
  tx : List TxItem
  /-- Every response so far, oldest first (R45, R112). -/
  responses : List Response
  /-- HMEM, the host's (R24). -/
  hmem : Memory
  /-- What the host does next, oldest first (R4, R13; log 5). -/
  host : List HostMove
  /-- The model's own: the number of the next reset, which picks its free framebuffer (log 2). -/
  resets : Nat
deriving DecidableEq, Repr

/-- Why the machine stops. -/
inductive Fault where
  /-- Raised by `execStreamFb` alone, when the window registers ask for more source bytes than FB has: only where I3 or
  I4 of R18 fails, which no run from reset reaches. Safe: the model stops where the spec gives no effect (log 11). -/
  | sourceBeyondFramebuffer
deriving DecidableEq, Repr

/-- Why an instruction has no meaning. -/
inductive Refusal where
  /-- Raised by `exec` alone, for an instruction without a meaning. Safe. Every instruction has one, so nothing raises it. -/
  | notModelled (mnemonic : String)
deriving DecidableEq, Repr

/-- The framebuffer the reset numbered `n` leaves: every byte a free value (R28, log 1). -/
def freshFramebuffer (n : Nat) : Framebuffer :=
  ⟨((List.range 504).map (Config.fbAtReset n)).toArray, by simp⟩

/-- The block right after reset (R26 to R29, R113). -/
def State.reset : State where
  fb := freshFramebuffer 0
  curX := 0
  curY := 0
  winW := 84
  winH := 48
  tx := []
  responses := []
  hmem := []
  host := []
  resets := 1

end Sys2Proof.Machine
end

