-- ==== Sys2Proof/Machine/Flags.lean ====
section
/-! DEFINITION. The block has no flags and no condition codes (R19): the outcome of an operation is its response word
alone. This file holds that word's encoding (R45). -/

namespace Sys2Proof.Machine

/-- The status numbers of R45. -/
def Status.code (e : Status) : Byte :=
  match e with
  | .ok => 0
  | .geometryError => 1
  | .glyphRangeError => 2
  | .transportError => 3
  | .illegalRequest => 4
  | .addressError => 5

/-- The 16-bit response word: status in bits 15:8, data in bits 7:0 (R45). -/
def Response.word (r : Response) : BitVec 16 := r.status.code ++ r.data

end Sys2Proof.Machine
end

