-- ==== Sys2Proof/Machine/Operands.lean ====
section
/-! DEFINITION. How operands are read and judged: geometry, cells, nibbles, thresholds, characters (R8, R42, R50). All
arithmetic is on naturals and exact (R6). -/

namespace Sys2Proof.Machine

/-- `hi8(v)`, the byte sent first of a window bound (R6, R32). -/
def hi8 (v : BitVec 16) : Byte := v.extractLsb' 8 8

/-- `lo8(v)`, the byte sent second (R6, R32). -/
def lo8 (v : BitVec 16) : Byte := v.extractLsb' 0 8

/-- Bits 7:4 of a byte, the left pixel's sample (R32, R85). -/
def highNibble (b : Byte) : Nat := b.toNat / 16

/-- Bits 3:0 of a byte, the right pixel's sample (R32, R85). -/
def lowNibble (b : Byte) : Nat := b.toNat % 16

/-- `clamp(t, lo, hi)` (R7). -/
def clamp (t lo hi : Nat) : Nat := if t < lo then lo else if hi < t then hi else t

/-- The pixel lies in the framebuffer (R8). -/
def pixelInRange (x y : Nat) : Bool := decide (x < 84) && decide (y < 48)

/-- A bit as the data byte of a response, 0 or 1 (R57). -/
def bitByte (v : Bool) : Byte := if v then 1 else 0

/-- The glyph of a renderable character code, `c - 0x20`, bounds-checked first (R73, R75). -/
def glyphIndex (code : Byte) : Option (Fin 96) :=
  if h : 0x20 ≤ code.toNat ∧ code.toNat ≤ 0x7F then some ⟨code.toNat - 0x20, by omega⟩ else none

/-- SETCUR's test and product for one axis: the pixel position of cell `cell`, where cells are `size` pixels and the
screen `extent` (R80). -/
def cellPosition (cell size extent : Nat) : Option Nat :=
  if cell * size + size ≤ extent then some (cell * size) else none

end Sys2Proof.Machine
end

