-- ==== Sys2Proof/Machine/Ops.lean ====
section
/-! DEFINITION. The operations every sub-block shares: host memory, framebuffer bytes, the Transport stream, the control
registers, and how a request ends. -/

namespace Sys2Proof.Machine

/-! ### Host memory (R24, R31, R36) -/

/-- What an unlisted address of HMEM reads as (DESIGN CHOICE, unsafe, log 3). -/
def Memory.unlisted : Byte := 0

/-- The byte at an address below 65536: `HMemRead` (R7). Every caller checks the address and raises AddressError past 65535
(R36). -/
def Memory.read : Memory → Nat → Byte
  | [], _ => Memory.unlisted
  | (k, b) :: m, a => if k = a then b else Memory.read m a

/-- The cell (a, v), unless an unlisted address reads as `v` already. -/
def Memory.cell (a : Nat) (v : Byte) : Memory := if v = Memory.unlisted then [] else [(a, v)]

/-- The memory with `v` at `a`, in the canonical form. -/
def Memory.write : Memory → Nat → Byte → Memory
  | [], a, v => Memory.cell a v
  | (k, b) :: m, a, v =>
    if a < k then Memory.cell a v ++ (k, b) :: m
    else if k = a then Memory.cell a v ++ m
    else (k, b) :: Memory.write m a v

/-- The canonical form from address `lo` up: addresses strictly rising and below 65536, no entry an unlisted address
would read as. -/
def Memory.wfFrom (lo : Nat) : Memory → Bool
  | [] => true
  | (k, b) :: m => decide (lo ≤ k) && decide (k < 65536) && decide (b ≠ Memory.unlisted) && Memory.wfFrom (k + 1) m

/-- The one canonical form of HMEM. -/
def Memory.wf (m : Memory) : Bool := Memory.wfFrom 0 m

/-- The `n` bytes of HMEM from `addr` on, for callers that checked `addr + n <= 65536` (R36). -/
def hmemBytes (s : State) (addr n : Nat) : List Byte := (List.range n).map fun k => s.hmem.read (addr + k)

/-! ### Framebuffer bytes (R7, R21) -/

/-- `MemRead(FB, k, 1)`, for `k < 504`, which every caller has established (log 12). -/
def fbReadByte (fb : Framebuffer) (k : Nat) : Byte := fb[k]?.getD 0

/-- `MemWrite(FB, k, 1, v)`, for `k < 504`, which every caller has established (log 12). -/
def fbWriteByte (fb : Framebuffer) (k : Nat) (v : Byte) : Framebuffer := fb.setIfInBounds k v

/-! ### State updates -/

/-- FB replaced. -/
def State.setFb (s : State) (fb : Framebuffer) : State := { s with fb := fb }

/-- CUR_X, CUR_Y replaced; the values the rules write fit 8 bits (R14, R15, R78). -/
def State.setCursor (s : State) (x y : Nat) : State := { s with curX := BitVec.ofNat 8 x, curY := BitVec.ofNat 8 y }

/-- WIN_W, WIN_H replaced; the values the rules write fit 8 bits (R16, R17). -/
def State.setWindowSize (s : State) (w h : Nat) : State := { s with winW := BitVec.ofNat 8 w, winH := BitVec.ofNat 8 h }

/-- Items appended to TX in order: a sequence of `Tx` (R7, R23). -/
def State.send (s : State) (items : List TxItem) : State := { s with tx := s.tx ++ items }

/-- `respond(d)`: the request ends with status OK and data `d` (R7, R45). -/
def State.respond (s : State) (d : Byte) : State := { s with responses := s.responses ++ [⟨.ok, d⟩] }

/-- `raise E`, the block's form of taking an exception (R106): the response is (E, 0), nothing else changes, nothing is
saved and control goes nowhere. There is no return operation beside it (R108). -/
def State.raise (s : State) (e : Status) : State := { s with responses := s.responses ++ [⟨e, 0⟩] }

/-! ### How a request ends -/

/-- A procedure that may raise: the state it leaves, or the status it raises with nothing done. -/
abbrev Attempt := Except Status State

/-- The end of an operation without result: `respond(0)` on the state it left, or `raise E` on the state before it
(R100, R106 point 3). -/
def finish (before : State) (r : Attempt) : Host.Outcome State Fault Refusal :=
  match r with
  | .ok s => .next (s.respond 0)
  | .error e => .next (before.raise e)

/-! ### Moves of the host and reset (R24, R113) -/

/-- The host writes one byte of HMEM (R24, log 7). -/
def State.hostWrite (s : State) (a : Ptr) (v : Byte) : State := { s with hmem := s.hmem.write a.toNat v }

/-- A reset of the running block (R113): the values of R26 to R29; HMEM and the host's further moves are not the
block's and stay (R29). FB is a fresh free value, the response record starts anew (log 8). -/
def State.resetBlock (s : State) : State :=
  { State.reset with fb := freshFramebuffer s.resets, resets := s.resets + 1, hmem := s.hmem, host := s.host }

end Sys2Proof.Machine
end

