-- ==== Sys2Proof/Machine/Framebuffer.lean ====
section
/-! DEFINITION. The framebuffer bit indexer (40_framebuffer_bit_indexer.md): PXSET, PXCLR, PXGET, FBWR, FBRD. -/

namespace Sys2Proof.Machine

/-- Byte index of a pixel (R52). -/
def fbIndex (x y : Nat) : Nat := x + 84 * (y / 8)

/-- Bit number of a pixel, bit 0 the least significant (R52). -/
def fbBit (y : Nat) : Nat := y % 8

/-- FbReadBit (R53), for a pixel in range. -/
def fbReadBit (fb : Framebuffer) (x y : Nat) : Bool := (fbReadByte fb (fbIndex x y)).getLsbD (fbBit y)

/-- FbWriteBit (R53), for a pixel in range: a read-modify-write of one byte with the mask `2^(y % 8)`. -/
def fbWriteBit (fb : Framebuffer) (x y : Nat) (v : Bool) : Framebuffer :=
  let old := fbReadByte fb (fbIndex x y)
  let mask : Byte := BitVec.ofNat 8 (2 ^ fbBit y)
  fbWriteByte fb (fbIndex x y) (if v then old ||| mask else old &&& (255 - mask))

/-- Write one pixel, or raise GeometryError (R55, R56). -/
def writePixel (x y : Nat) (v : Bool) (s : State) : Host.Outcome State Fault Refusal :=
  finish s (if pixelInRange x y then .ok (s.setFb (fbWriteBit s.fb x y v)) else .error .geometryError)

/-- `PXSET x, y, v` (R55). -/
def execPxset (x y v : Byte) (s : State) : Host.Outcome State Fault Refusal := writePixel x.toNat y.toNat (v == 1) s

/-- `PXCLR x, y` (R56). -/
def execPxclr (x y : Byte) (s : State) : Host.Outcome State Fault Refusal := writePixel x.toNat y.toNat false s

/-- `PXGET x, y` (R57). -/
def execPxget (x y : Byte) (s : State) : Host.Outcome State Fault Refusal :=
  if pixelInRange x.toNat y.toNat then .next (s.respond (bitByte (fbReadBit s.fb x.toNat y.toNat)))
  else .next (s.raise .geometryError)

/-- `FBWR idx, val` (R58). -/
def execFbwr (val : Byte) (idx : Ptr) (s : State) : Host.Outcome State Fault Refusal :=
  finish s (if 504 ≤ idx.toNat then .error .addressError else .ok (s.setFb (fbWriteByte s.fb idx.toNat val)))

/-- `FBRD idx` (R59). -/
def execFbrd (idx : Ptr) (s : State) : Host.Outcome State Fault Refusal :=
  if 504 ≤ idx.toNat then .next (s.raise .addressError) else .next (s.respond (fbReadByte s.fb idx.toNat))

end Sys2Proof.Machine
end

