-- ==== Sys2Proof/Machine/Bitmap.lean ====
section
/-! DEFINITION. The 4-bit bitmap to framebuffer transcoder (44_bitmap_transcoder.md): IMPBMP. -/

namespace Sys2Proof.Machine

/-- The three header fields, one unsigned byte each (R83, R84). -/
structure BitmapHeader where
  doff : Nat
  width : Nat
  height : Nat
deriving DecidableEq, Repr

/-- The header of the bitmap at `addr`, for `addr + 22 < 65536` (R83). -/
def readHeader (m : Memory) (addr : Nat) : BitmapHeader :=
  ⟨(m.read (addr + 10)).toNat, (m.read (addr + 18)).toNat, (m.read (addr + 22)).toNat⟩

/-- The bytes skipped after each row (R86). -/
def rowPad (width : Nat) : Nat := (4 - (width / 2) % 4) % 4

/-- The distance between two rows in memory (R85). -/
def rowStride (width : Nat) : Nat := width / 2 + rowPad width

/-- P1 to P5 of R87. -/
def importGeometryOk (xpos ypos : Nat) (b : BitmapHeader) : Bool :=
  decide (b.height ≠ 0) && decide (b.width % 2 = 0) && decide (xpos + b.width ≤ 84)
  && decide (b.height ≤ ypos + 1) && decide (ypos ≤ 47)

/-- A2 of R90: the last data byte, if there is one, is readable. -/
def importDataReadable (addr : Nat) (b : BitmapHeader) : Bool :=
  decide (b.width = 0) ||
    decide (addr + b.doff + (b.height - 1) * rowStride b.width + b.width / 2 - 1 ≤ 65535)

/-- Quantization: ON exactly when the sample is strictly greater than the threshold (R89). -/
def quantize (sample t : Nat) : Bool := decide (t < sample)

/-- One data byte: the left pixel from its high nibble, the right pixel from its low nibble (R85, R93). -/
def importByte (byte : Byte) (t px py : Nat) (fb : Framebuffer) : Framebuffer :=
  fbWriteBit (fbWriteBit fb px py (quantize (highNibble byte) t)) (px + 1) py (quantize (lowNibble byte) t)

/-- The `pairs` data bytes of one row, the first at address `j` (R93, inner loop). -/
def importRow (m : Memory) (j pairs t xpos py : Nat) (fb : Framebuffer) : Framebuffer :=
  (List.range pairs).foldl (fun fb k => importByte (m.read (j + k)) t (xpos + 2 * k) py fb) fb

/-- All rows, the bottom one first, each one framebuffer row higher than the last (R93, outer loop). -/
def importRows (m : Memory) (addr xpos ypos t : Nat) (b : BitmapHeader) (fb : Framebuffer) : Framebuffer :=
  (List.range b.height).foldl
    (fun fb r => importRow m (addr + b.doff + r * rowStride b.width) (b.width / 2) t xpos (ypos - r) fb) fb

/-- ImportBitmap, the checks in the order of R91. -/
def importBitmap (xpos ypos thr addr : Nat) (s : State) : Attempt :=
  if 65535 < addr + 22 then .error .addressError
  else
    let b := readHeader s.hmem addr
    if ¬ importGeometryOk xpos ypos b then .error .geometryError
    else if ¬ importDataReadable addr b then .error .addressError
    else .ok (s.setFb (importRows s.hmem addr xpos ypos (clamp thr 0 14) b s.fb))

/-- `IMPBMP xpos, ypos, addr, thr` (R93). -/
def execImpbmp (xpos ypos thr : Byte) (addr : Ptr) (s : State) : Host.Outcome State Fault Refusal :=
  finish s (importBitmap xpos.toNat ypos.toNat thr.toNat addr.toNat s)

end Sys2Proof.Machine
end

