-- ==== Sys2Proof/Machine/Window.lean ====
section
/-! DEFINITION. The window address translator (41_window_address_translator.md): SETWIN, RSTWIN. -/

namespace Sys2Proof.Machine

/-- An item sent with SendCommand (R7). -/
def txC (b : Byte) : TxItem := ⟨.command, b⟩

/-- An item sent with SendData (R7). -/
def txD (b : Byte) : TxItem := ⟨.data, b⟩

/-- A window bound: 16 bits, high byte first, as data items (R32, R61). -/
def boundItems (v : Nat) : List TxItem := [txD (hi8 (BitVec.ofNat 16 v)), txD (lo8 (BitVec.ofNat 16 v))]

/-- The 11 items that set the window `(x, y, w, h)`, with the absolute bounds of R60 (R61). -/
def windowPacket (c : Config) (x y w h : Nat) : List TxItem :=
  [txC c.cmdCaset] ++ boundItems (x + c.xOfs) ++ boundItems (x + w - 1 + c.xOfs)
  ++ [txC c.cmdRaset] ++ boundItems (y + c.yOfs) ++ boundItems (y + h - 1 + c.yOfs)
  ++ [txC c.cmdRamwr]

/-- SetWindow(x, y, w, h) (R62). -/
def setWindow (c : Config) (x y w h : Nat) (s : State) : Attempt :=
  if w % 2 ≠ 0 then .error .geometryError
  else if w = 0 ∨ h = 0 then .error .geometryError
  else if 84 < x + w then .error .geometryError
  else if 48 < y + h then .error .geometryError
  else .ok ((s.send (windowPacket c x y w h)).setWindowSize w h)

/-- ResetWindow() (R64): the default logical rectangle (R63) and the cursor at the origin. -/
def resetWindow (c : Config) (s : State) : Attempt := (setWindow c 0 0 84 48 s).map (·.setCursor 0 0)

/-- SETWIN under a configuration (R62). -/
def setwinOp (c : Config) (x y w h : Byte) (s : State) : Host.Outcome State Fault Refusal :=
  finish s (setWindow c x.toNat y.toNat w.toNat h.toNat s)

/-- RSTWIN under a configuration (R64). -/
def rstwinOp (c : Config) (s : State) : Host.Outcome State Fault Refusal := finish s (resetWindow c s)

/-- `SETWIN x, y, w, h` (R62). -/
def execSetwin (x y w h : Byte) (s : State) : Host.Outcome State Fault Refusal := setwinOp Config.chip x y w h s

/-- `RSTWIN` (R64). -/
def execRstwin (s : State) : Host.Outcome State Fault Refusal := rstwinOp Config.chip s

end Sys2Proof.Machine
end

