-- ==== Sys2Proof/Machine/Codec.lean ====
section
/-! DEFINITION. The 1-bit to 12-bit RGB pixel codec (42_pixel_codec.md): the three modes of STREAM. -/

namespace Sys2Proof.Machine

/-- Sample to colour: set is black, clear is white (R66). -/
def colour (sample : Bool) : Colour := if sample then 0x000 else 0xFFF

/-- Two 12-bit pixels in three bytes (R67). -/
def packPair (p1 p2 : Colour) : List Byte :=
  [p1.extractLsb' 4 8, p1.extractLsb' 0 4 ++ p2.extractLsb' 8 4, p2.extractLsb' 0 8]

/-- What a stream takes its samples from: the "no source" marker, or bytes in the band layout (R69). -/
abbrev Source := Option (List Byte)

/-- The sample of window pixel `(px, py)`, with the row-band stride `WIN_W` (R69). -/
def sample (src : List Byte) (winW px py : Nat) : Bool := (src.getD (px + winW * (py / 8)) 0).getLsbD (py % 8)

/-- The sample of the pixel sent as number `n`: row by row, left to right (R68); background where there is no source
(R66). -/
def sampleAt (src : Source) (winW n : Nat) : Bool :=
  match src with
  | none => false
  | some bytes => sample bytes winW (n % winW) (n / winW)

/-- The three data items of the pixels `i` and `i + 1` (R67, R70). -/
def pairItems (src : Source) (winW i : Nat) : List TxItem :=
  (packPair (colour (sampleAt src winW i)) (colour (sampleAt src winW (i + 1)))).map txD

/-- The items of StreamWindow: the pairs at 0, 2, 4, ... of the `winW * winH` pixels (R70). A source holds at least
`srcLen winW winH` bytes. -/
def streamItems (src : Source) (winW winH : Nat) : List TxItem :=
  (List.range (winW * winH / 2)).flatMap fun k => pairItems src winW (2 * k)

/-- StreamWindow(source) (R70). -/
def streamWindow (src : Source) (s : State) : State := s.send (streamItems src s.winW.toNat s.winH.toNat)

/-- The number of source bytes a stream reads from (R69). -/
def srcLen (winW winH : Nat) : Nat := winW * ((winH + 7) / 8)

/-- Where streaming from a source is defined (R69). -/
def streamDomainOk (winW winH : Nat) : Bool := decide (winW = 84) || decide (winH ≤ 8)

/-- `STREAM NONE` (R71): works for every window. -/
def execStreamNone (s : State) : Host.Outcome State Fault Refusal := finish s (.ok (streamWindow none s))

/-- `STREAM FB` (R71). The fault is for window registers that break I3 or I4 of R18 (log 11). -/
def execStreamFb (s : State) : Host.Outcome State Fault Refusal :=
  if ¬ streamDomainOk s.winW.toNat s.winH.toNat then finish s (.error .geometryError)
  else if 504 < srcLen s.winW.toNat s.winH.toNat then .fault .sourceBeyondFramebuffer
  else finish s (.ok (streamWindow (some s.fb.toList) s))

/-- `STREAM HMEM, addr` (R71). -/
def execStreamHmem (addr : Ptr) (s : State) : Host.Outcome State Fault Refusal :=
  let len := srcLen s.winW.toNat s.winH.toNat
  finish s
    (if ¬ streamDomainOk s.winW.toNat s.winH.toNat then .error .geometryError
    else if 65536 < addr.toNat + len then .error .addressError
    else .ok (streamWindow (some (hmemBytes s addr.toNat len)) s))

end Sys2Proof.Machine
end

