-- ==== Sys2Proof/Machine/Text.lean ====
section
/-! DEFINITION. The glyph ROM and row sequencer (43_glyph_text_engine.md): PUTCHAR, PUTSTR, SETCUR, CLEAR. -/

namespace Sys2Proof.Machine

/-- The cell of a glyph: five column bytes and a blank one (R74). -/
def glyphCell (c : Config) (g : Fin 96) : List Byte :=
  [c.glyph g 0, c.glyph g 1, c.glyph g 2, c.glyph g 3, c.glyph g 4, 0x00]

/-- advance_and_wrap() (R78): where the cursor goes, from its position and the window size. The two tests are not
nested. -/
def advance (x y winW winH : Nat) : Nat × Nat :=
  let p := if winW < x + 6 + 6 then (0, y + 8) else (x + 6, y)
  if winH < p.2 + 8 then (p.1, 0) else p

/-- PutChar(c) (R77): narrow the window to the cell at the cursor, stream the cell, restore the two window registers,
advance. -/
def putChar (c : Config) (code : Byte) (s : State) : Attempt :=
  match glyphIndex code with
  | none => .error .glyphRangeError
  | some g =>
    (setWindow c s.curX.toNat s.curY.toNat 6 8 s).map fun s1 =>
      let s2 := (streamWindow (some (glyphCell c g)) s1).setWindowSize s.winW.toNat s.winH.toNat
      let p := advance s.curX.toNat s.curY.toNat s.winW.toNat s.winH.toNat
      s2.setCursor p.1 p.2

/-- PUTCHAR under a configuration (R77). -/
def putcharOp (c : Config) (code : Byte) (s : State) : Host.Outcome State Fault Refusal := finish s (putChar c code s)

/-- The loop of PUTSTR (R79) with the pointer at `q` and `remaining = 65536 - q` bytes of HMEM from there on. An error
leaves what the characters before it did (R106). -/
def putStrLoop (c : Config) : Nat → Nat → State → State
  | 0, _, s => s.raise .addressError
  | remaining + 1, q, s =>
    let ch := s.hmem.read q
    if ch = 0x00 then s.respond 0
    else
      match putChar c ch s with
      | .error e => s.raise e
      | .ok s1 => putStrLoop c remaining (q + 1) s1

/-- PUTSTR under a configuration (R79). -/
def putstrOp (c : Config) (addr : Ptr) (s : State) : Host.Outcome State Fault Refusal :=
  .next (putStrLoop c (65536 - addr.toNat) addr.toNat s)

/-- CLEAR under a configuration (R81). -/
def clearOp (c : Config) (s : State) : Host.Outcome State Fault Refusal :=
  finish s ((resetWindow c s).map (streamWindow none))

/-- `PUTCHAR c` (R77). -/
def execPutchar (code : Byte) (s : State) : Host.Outcome State Fault Refusal := putcharOp Config.chip code s

/-- `PUTSTR addr` (R79). -/
def execPutstr (addr : Ptr) (s : State) : Host.Outcome State Fault Refusal := putstrOp Config.chip addr s

/-- `SETCUR cx, cy` (R80): the axes are validated and applied independently; a rejected axis is no error. -/
def execSetcur (cx cy : Byte) (s : State) : Host.Outcome State Fault Refusal :=
  let x := (cellPosition cx.toNat 6 84).getD s.curX.toNat
  let y := (cellPosition cy.toNat 8 48).getD s.curY.toNat
  finish s (.ok (s.setCursor x y))

/-- `CLEAR` (R81). -/
def execClear (s : State) : Host.Outcome State Fault Refusal := clearOp Config.chip s

end Sys2Proof.Machine
end

