-- ==== Sys2Proof/Machine/Surface.lean ====
section
/-! DEFINITION. The compatibility surface (45_compat_surface.md): INIT, DRAWFULL, DISPBUF. -/

namespace Sys2Proof.Machine

/-- INIT under a configuration (R96). -/
def initOp (c : Config) (s : State) : Host.Outcome State Fault Refusal :=
  finish s (.ok (((s.send c.initTx).setWindowSize 84 48).setCursor 0 0))

/-- The cursor at the origin if `b`, else where it is (R97, R98: DRAWFULL_RESETS_CURSOR). -/
def State.homeCursorIf (s : State) (b : Bool) : State :=
  s.setCursor (if b then 0 else s.curX.toNat) (if b then 0 else s.curY.toNat)

/-- The flush that DRAWFULL and DISPBUF share: the default window, the cursor if the configuration says so, the 504
bytes (R97, R98). -/
def flush (c : Config) (bytes : List Byte) (s : State) : Attempt :=
  (setWindow c 0 0 84 48 s).map fun s1 =>
    streamWindow (some bytes) (s1.homeCursorIf c.drawfullResetsCursor)

/-- DRAWFULL under a configuration (R97). -/
def drawfullOp (c : Config) (addr : Ptr) (s : State) : Host.Outcome State Fault Refusal :=
  finish s
    (if 65536 < addr.toNat + 504 then .error .addressError else flush c (hmemBytes s addr.toNat 504) s)

/-- DISPBUF under a configuration (R98). -/
def dispbufOp (c : Config) (s : State) : Host.Outcome State Fault Refusal := finish s (flush c s.fb.toList s)

/-- `INIT` (R96). -/
def execInit (s : State) : Host.Outcome State Fault Refusal := initOp Config.chip s

/-- `DRAWFULL addr` (R97). -/
def execDrawfull (addr : Ptr) (s : State) : Host.Outcome State Fault Refusal := drawfullOp Config.chip addr s

/-- `DISPBUF` (R98). -/
def execDispbuf (s : State) : Host.Outcome State Fault Refusal := dispbufOp Config.chip s

end Sys2Proof.Machine
end

