-- ==== Sys2Proof/Machine/Dispatch.lean ====
section
/-! DEFINITION. The meaning of every operation, one arm per constructor. -/

namespace Sys2Proof.Machine

def exec (i : Instr) (s : State) : Host.Outcome State Fault Refusal :=
  match i with
  -- 40_framebuffer_bit_indexer.md
  | .pxset x y v => Sys2Proof.Machine.execPxset x y v s
  | .pxclr x y => Sys2Proof.Machine.execPxclr x y s
  | .pxget x y => Sys2Proof.Machine.execPxget x y s
  | .fbwr val idx => Sys2Proof.Machine.execFbwr val idx s
  | .fbrd idx => Sys2Proof.Machine.execFbrd idx s
  -- 41_window_address_translator.md
  | .setwin x y w h => Sys2Proof.Machine.execSetwin x y w h s
  | .rstwin => Sys2Proof.Machine.execRstwin s
  -- 42_pixel_codec.md
  | .streamNone => Sys2Proof.Machine.execStreamNone s
  | .streamFb => Sys2Proof.Machine.execStreamFb s
  | .streamHmem addr => Sys2Proof.Machine.execStreamHmem addr s
  -- 43_glyph_text_engine.md
  | .putchar code => Sys2Proof.Machine.execPutchar code s
  | .putstr addr => Sys2Proof.Machine.execPutstr addr s
  | .setcur cx cy => Sys2Proof.Machine.execSetcur cx cy s
  | .clear => Sys2Proof.Machine.execClear s
  -- 44_bitmap_transcoder.md
  | .impbmp xpos ypos thr addr => Sys2Proof.Machine.execImpbmp xpos ypos thr addr s
  -- 45_compat_surface.md
  | .init => Sys2Proof.Machine.execInit s
  | .drawfull addr => Sys2Proof.Machine.execDrawfull addr s
  | .dispbuf => Sys2Proof.Machine.execDispbuf s

end Sys2Proof.Machine
end

