-- ==== Sys2Proof/Machine/Sequencer.lean ====
section
/-! DEFINITION. The operation sequencer (R4): what one request and one move of the host do. -/

namespace Sys2Proof.Machine

/-- A request is decoded and performed to completion; an illegal word is answered IllegalRequest and changes nothing
(R13, R44, R45). -/
def acceptRequest (w : Request) (s : State) : Host.Outcome State Fault Refusal :=
  match decode w with
  | .legal i => exec i s
  | .illegal _ => .next (s.raise .illegalRequest)

/-- One move of the host, already taken off the list of pending moves. -/
def takeMove (m : HostMove) (s : State) : Host.Outcome State Fault Refusal :=
  match m with
  | .request w => acceptRequest w s
  | .hmemWrite a v => .next (s.hostWrite a v)
  | .reset => .next s.resetBlock

/-- The next move, or, where none is pending, nothing: "between requests the block is idle and keeps all its state"
(R111, log 6). -/
def takeNext (s : State) : Host.Outcome State Fault Refusal :=
  match s.host with
  | [] => .next s
  | m :: rest => takeMove m { s with host := rest }

/-- The request with the low `nbits` bits of `w`, put before the host's other moves. -/
def offerWord (s : State) (nbits w : Nat) : State :=
  { s with host := .request (BitVec.ofNat 48 (w % 2 ^ nbits)) :: s.host }

end Sys2Proof.Machine
end

