-- ==== Sys2Proof/Machine/Step.lean ====
section
/-! DEFINITION. One step of the machine. -/

namespace Sys2Proof.Machine

/-- One step: the next move of the host is taken, and a request is performed to completion (R20, R35). -/
def step (s : State) : Host.Outcome State Fault Refusal := takeNext s

/-- `s` with the request `w` as the host's very next move. The block fetches nothing (R13): requests are presented to it,
so this stands for the host presenting that word (log 5). -/
def State.withFetchWord (s : State) (nbits w : Nat) : State := offerWord s nbits w

end Sys2Proof.Machine
end

