-- ==== Sys2Proof/Machine/Discipline.lean ====
section
/-! DEFINITION. The host's discipline of R115, an observer of a run: the block does not check it and the step never reads
it. -/

namespace Sys2Proof.Machine

/-- What an operation has to do with R115. -/
inductive WindowUse where
  /-- SETWIN, RSTWIN: it sends a window packet and nothing after it. -/
  | sets
  /-- STREAM: its pixel bytes are the payload of the packet before it. -/
  | streams
  /-- Any other operation: what it streams it puts behind a packet of its own. -/
  | other
deriving DecidableEq, Repr

/-- The part each operation has in R115. -/
def windowUse (i : Instr) : WindowUse :=
  match i with
  | .setwin _ _ _ _ => .sets
  | .rstwin => .sets
  | .streamNone => .streams
  | .streamFb => .streams
  | .streamHmem _ => .streams
  | .pxset _ _ _ => .other
  | .pxclr _ _ => .other
  | .pxget _ _ => .other
  | .fbwr _ _ => .other
  | .fbrd _ => .other
  | .putchar _ => .other
  | .putstr _ => .other
  | .setcur _ _ => .other
  | .clear => .other
  | .impbmp _ _ _ _ => .other
  | .init => .other
  | .drawfull _ => .other
  | .dispbuf => .other

/-- The part a move of the host has in R115: that of its request, and none for an illegal word, which is no operation. -/
def moveUse (m : HostMove) : WindowUse :=
  match m with
  | .request w =>
    match decode w with
    | .legal i => windowUse i
    | .illegal _ => .other
  | .hmemWrite _ _ => .other
  | .reset => .other

/-- Whether a window packet is still fresh after the move `m` from `s` to `t`, given whether one was before it: a move
that sends Transport items leaves one exactly if it is a SETWIN or RSTWIN, one that sends none keeps it as long as WIN_W
and WIN_H stay the window that was set, and after a reset there is none. -/
def freshAfter (fresh : Bool) (m : HostMove) (s t : State) : Bool :=
  if m = .reset then false
  else if t.tx.length = s.tx.length then fresh && t.winW == s.winW && t.winH == s.winH
  else moveUse m == .sets

/-- R115 along the run that performs `moves` from `s`: every STREAM finds a fresh window packet. -/
def packetedFrom : (fresh : Bool) → List HostMove → State → Bool
  | _, [], _ => true
  | fresh, m :: rest, s =>
    (moveUse m != .streams || fresh) &&
      match takeMove m { s with host := rest } with
      | .next t => packetedFrom (freshAfter fresh m s t) rest t
      | .fault _ => true
      | .refused _ => true

/-- R115 of the pending moves of `s`, with no window packet sent yet: "The host must issue `SETWIN` (or `RSTWIN`) directly
before each `STREAM`, with no other request that sends Transport items in between, and the window set must be the one
whose `WIN_W * WIN_H` pixels the stream will send." The reading of it is in log 21. -/
def streamsPacketed (s : State) : Bool := packetedFrom false s.host s

end Sys2Proof.Machine
end

