-- ==== Sys2Proof/Machine/Panel.lean ====
section
/-! DEFINITION. An observer of TX, no part of the block: the inverse of the packing (R72) and the reference receiver of
95_test_vectors.md section 4, which turns a TX sequence into an image. The step never reads it (R23, R25; log 18). -/

namespace Sys2Proof.Machine

/-- The two pixels of a triple (R72). -/
def unpackTriple (b0 b1 b2 : Byte) : Colour × Colour :=
  (BitVec.ofNat 12 (b0.toNat * 16 + b1.toNat / 16), BitVec.ofNat 12 (b1.toNat % 16 * 256 + b2.toNat))

/-- What the receiver expects next. -/
inductive PanelMode where
  | idle
  /-- The `n`-th of the four column bound bytes comes next. -/
  | caset (n : Nat)
  /-- The `n`-th of the four row bound bytes comes next. -/
  | raset (n : Nat)
  /-- Pixel bytes; those of an incomplete triple are held. -/
  | ramwr (held : List Byte)
deriving DecidableEq, Repr

/-- The receiver: its bounds, its position, and the pixels written, newest first. -/
structure Panel where
  xs : Nat
  xe : Nat
  ys : Nat
  ye : Nat
  col : Nat
  row : Nat
  mode : PanelMode
  canvas : List ((Nat × Nat) × Colour)
deriving DecidableEq, Repr

/-- A panel that has received nothing. -/
def Panel.blank : Panel := ⟨0, 0, 0, 0, 0, 0, .idle, []⟩

/-- The colour last written at a canvas position; nothing where none was. -/
def Panel.pixel (p : Panel) (col row : Nat) : Option Colour := p.canvas.lookup (col, row)

/-- The high byte of a 16-bit bound replaced. -/
def withHigh (v : Nat) (b : Byte) : Nat := b.toNat * 256 + v % 256

/-- The low byte of a 16-bit bound replaced. -/
def withLow (v : Nat) (b : Byte) : Nat := v / 256 * 256 + b.toNat

/-- A column bound byte. -/
def Panel.columnByte (p : Panel) (n : Nat) (b : Byte) : Panel :=
  match n with
  | 0 => { p with xs := withHigh p.xs b, mode := .caset 1 }
  | 1 => { p with xs := withLow p.xs b, mode := .caset 2 }
  | 2 => { p with xe := withHigh p.xe b, mode := .caset 3 }
  | 3 => { p with xe := withLow p.xe b, mode := .caset 4 }
  | _ => p

/-- A row bound byte. -/
def Panel.rowByte (p : Panel) (n : Nat) (b : Byte) : Panel :=
  match n with
  | 0 => { p with ys := withHigh p.ys b, mode := .raset 1 }
  | 1 => { p with ys := withLow p.ys b, mode := .raset 2 }
  | 2 => { p with ye := withHigh p.ye b, mode := .raset 3 }
  | 3 => { p with ye := withLow p.ye b, mode := .raset 4 }
  | _ => p

/-- One pixel at the position, which then moves right, and at the right bound to the next row. -/
def Panel.put (p : Panel) (v : Colour) : Panel :=
  let canvas := ((p.col, p.row), v) :: p.canvas
  let next := if p.xe < p.col + 1 then (p.xs, p.row + 1) else (p.col + 1, p.row)
  { p with canvas := canvas, col := next.1, row := if p.ye < next.2 then p.ys else next.2 }

/-- A pixel byte: every third completes a triple. -/
def Panel.pixelByte (p : Panel) (held : List Byte) (b : Byte) : Panel :=
  match held with
  | [b0, b1] =>
    let pair := unpackTriple b0 b1 b
    { (p.put pair.1).put pair.2 with mode := .ramwr [] }
  | _ => { p with mode := .ramwr (held ++ [b]) }

/-- One Transport item, under a configuration whose three commands differ. -/
def Panel.item (c : Config) (p : Panel) (i : TxItem) : Panel :=
  match i.kind with
  | .command =>
    if i.byte = c.cmdCaset then { p with mode := .caset 0 }
    else if i.byte = c.cmdRaset then { p with mode := .raset 0 }
    else if i.byte = c.cmdRamwr then { p with mode := .ramwr [], col := p.xs, row := p.ys }
    else { p with mode := .idle }
  | .data =>
    match p.mode with
    | .idle => p
    | .caset n => p.columnByte n i.byte
    | .raset n => p.rowByte n i.byte
    | .ramwr held => p.pixelByte held i.byte

/-- A whole sequence of items. -/
def Panel.receive (c : Config) (p : Panel) (items : List TxItem) : Panel := items.foldl (Panel.item c) p

/-- The three panel commands can be told apart. -/
abbrev commandsDiffer (c : Config) : Prop :=
  c.cmdCaset ≠ c.cmdRaset ∧ c.cmdCaset ≠ c.cmdRamwr ∧ c.cmdRaset ≠ c.cmdRamwr

end Sys2Proof.Machine
end

