-- ==== Sys2Proof/Safety.lean ====
section
/-! DEFINITION. What counts as a safe state and run (R115's discipline of the host is in Machine/Discipline.lean), and the
vocabulary the statements are written in: the spec's own tables, said without the machine's operations. -/

namespace Sys2Proof

open Sys2Proof.Machine

/-! ### Safe states and runs -/

/-- I1 of R18. -/
abbrev CursorColumnOk (s : State) : Prop := s.curX.toNat % 6 = 0 ∧ s.curX.toNat + 6 ≤ 84

/-- I2 of R18. -/
abbrev CursorRowOk (s : State) : Prop := s.curY.toNat % 8 = 0 ∧ s.curY.toNat + 8 ≤ 48

/-- I3 of R18. -/
abbrev WindowWidthOk (s : State) : Prop := s.winW.toNat % 2 = 0 ∧ 2 ≤ s.winW.toNat ∧ s.winW.toNat ≤ 84

/-- I4 of R18. -/
abbrev WindowHeightOk (s : State) : Prop := 1 ≤ s.winH.toNat ∧ s.winH.toNat ≤ 48

/-- The invariant of the machine: I1 to I4 of R18, and HMEM in its one canonical form. -/
abbrev Inv (s : State) : Prop :=
  CursorColumnOk s ∧ CursorRowOk s ∧ WindowWidthOk s ∧ WindowHeightOk s ∧ s.hmem.wf = true

/-- Every response so far is OK: what a claim that a program "draws correctly" needs (R112). -/
abbrev AllOk (s : State) : Prop := ∀ r ∈ s.responses, r.status = .ok

/-! ### Vocabulary -/

/-- The four triples of the table of R67, from the samples of two pixels. -/
def triple (first second : Bool) : List Byte :=
  match first, second with
  | false, false => [0xFF, 0xFF, 0xFF]
  | false, true => [0xFF, 0xF0, 0x00]
  | true, false => [0x00, 0x0F, 0xFF]
  | true, true => [0x00, 0x00, 0x00]

/-- Bytes sent as data items. -/
def dataItems (bytes : List Byte) : List TxItem := bytes.map fun b => ⟨.data, b⟩

/-- The items are the stream of a `w` by `h` window whose pixel in column `px` of row `py` has the sample `pix px py`:
row by row, in each row the pairs of neighbours left to right, three data bytes a pair (R66 to R68). -/
def IsStream (items : List TxItem) (w h : Nat) (pix : Nat → Nat → Bool) : Prop :=
  items.length = 3 * (w / 2) * h ∧
  ∀ py < h, ∀ j < w / 2,
    (items.drop (3 * (py * (w / 2) + j))).take 3 = dataItems (triple (pix (2 * j) py) (pix (2 * j + 1) py))

/-- A bound as two data items, the high byte first (R32). -/
def bound (v : Nat) : List TxItem := dataItems [BitVec.ofNat 8 (v / 256), BitVec.ofNat 8 (v % 256)]

/-- The window packet of R61 for the rectangle `(x, y, w, h)`, the bounds of R60 written as in the rule. -/
def packet (c : Config) (x y w h : Nat) : List TxItem :=
  ⟨.command, c.cmdCaset⟩ :: (bound (x + c.xOfs) ++ bound (x + w - 1 + c.xOfs) ++
    ⟨.command, c.cmdRaset⟩ :: (bound (y + c.yOfs) ++ bound (y + h - 1 + c.yOfs) ++ [⟨.command, c.cmdRamwr⟩]))

/-- Bit `j` of FB byte `k`. -/
def fbBitAt (s : State) (k j : Nat) : Bool := (fbReadByte s.fb k).getLsbD j

/-- The pixel `(x, y)` of FB: bit `y % 8` of byte `x + 84 * (y / 8)` (R52). -/
def pixelAt (s : State) (x y : Nat) : Bool := fbBitAt s (x + 84 * (y / 8)) (y % 8)

/-- A character code with a glyph (R75). -/
abbrev Renderable (code : Byte) : Prop := 0x20 ≤ code.toNat ∧ code.toNat ≤ 0x7F

/-- Pixel `(px, py)` of the 6 by 8 cell of a character: bit `py` of column byte `px`; column 5 is blank (R74). -/
def cellPixel (c : Config) (code : Byte) (px py : Nat) : Bool :=
  if h : px < 5 then (c.glyph (Fin.ofNat 96 (code.toNat - 0x20)) ⟨px, h⟩).getLsbD py else false

/-- The state once the request has been answered `e`, `d`, with nothing else changed. -/
def answered (s : State) (e : Status) (d : Byte) : State := { s with responses := s.responses ++ [⟨e, d⟩] }

end Sys2Proof
end

