-- ==== Sys2Proof/Certificates/Slice0/Obligations.lean ====
section
/-! DEFINITION. The statements for the provers. In all of them the chip's open parameters are the opaque `Config.chip`
and the framebuffer is any 504 bytes, so each holds for every chip and every image. -/

open Sys2Proof Sys2Proof.Machine

/-! ### Encoding (30_encoding.md) -/

/-- R41 to R43: every operand of every well-formed operation comes back from its word. -/
def Obligations.DecodeOfEncodeIsTheOperation : Prop :=
  ∀ i : Instr, i.wellFormed = true → decode (encode i) = .legal i

/-- R44, "decodes to exactly one operation with its operands": a legal word is the encoding of what it decodes to. -/
def Obligations.EncodeOfDecodeIsTheWord : Prop :=
  ∀ (w : Request) (i : Instr), decode w = .legal i → i.wellFormed = true ∧ encode i = w

/-- spec/opcode_table.json: a word is decoded to an operation of a row exactly when it matches that row under the row's
mask, and it is illegal exactly when it matches none of the eighteen. -/
def Obligations.DecoderFollowsTheOpcodeTable : Prop :=
  (∀ (w : Request) (r : OpcodeRow), r ∈ opcodeTable → (r.covers w = true ↔ ∃ i, decode w = .legal i ∧ i.row = r)) ∧
  ∀ w : Request, (∃ why, decode w = .illegal why) ↔ ∀ r ∈ opcodeTable, r.covers w = false

/-- Words of 95_test_vectors.md written out from the fields of R41, one a family, and three illegal ones. -/
def Obligations.WordsOfTheSpecDecode : Prop :=
  decode 0x100009010000 = .legal (.pxset 0 9 1) ∧ decode 0x13AB000001F7 = .legal (.fbwr 0xAB 503) ∧
  decode 0x200C10060800 = .legal (.setwin 12 16 6 8) ∧ decode 0x300200000300 = .legal (.streamHmem 0x0300) ∧
  decode 0x404100000000 = .legal (.putchar 0x41) ∧ decode 0x420D05000000 = .legal (.setcur 13 5) ∧
  decode 0x500A09070200 = .legal (.impbmp 10 9 7 0x0200) ∧ decode 0x610000001000 = .legal (.drawfull 0x1000) ∧
  decode 0x100000020000 = .illegal .pxsetValue ∧ decode 0x300300000000 = .illegal .streamMode ∧
  decode 0x300100000001 = .illegal .streamPointer

/-- R44: the five clauses of an illegal word, its answer (status 4, nothing changed, nothing sent), and that every other
word is one operation, which the step performs. -/
def Obligations.IllegalWordsAreAnsweredFour : Prop :=
  ∀ (s : State) (w : Request) (rest : List HostMove), s.host = .request w :: rest →
    let op := w.op.toNat
    let illegal :=
      op ∉ [0x10, 0x11, 0x12, 0x13, 0x14, 0x20, 0x21, 0x30, 0x40, 0x41, 0x42, 0x43, 0x50, 0x60, 0x61, 0x62] ∨
      (op ∈ [0x21, 0x43, 0x60, 0x62] ∧ (w.a ≠ 0 ∨ w.b ≠ 0 ∨ w.c ≠ 0 ∨ w.d ≠ 0 ∨ w.e ≠ 0)) ∨
      (op ∈ [0x40] ∧ (w.b ≠ 0 ∨ w.c ≠ 0 ∨ w.d ≠ 0 ∨ w.e ≠ 0)) ∨
      (op ∈ [0x11, 0x12, 0x42] ∧ (w.c ≠ 0 ∨ w.d ≠ 0 ∨ w.e ≠ 0)) ∨
      (op ∈ [0x10] ∧ (w.d ≠ 0 ∨ w.e ≠ 0)) ∨
      (op ∈ [0x20] ∧ w.e ≠ 0) ∨
      (op ∈ [0x14, 0x41, 0x61] ∧ (w.a ≠ 0 ∨ w.b ≠ 0 ∨ w.c ≠ 0)) ∨
      (op ∈ [0x13, 0x30] ∧ (w.b ≠ 0 ∨ w.c ≠ 0)) ∨
      (op = 0x10 ∧ 1 < w.c.toNat) ∨
      (op = 0x30 ∧ 2 < w.a.toNat) ∨
      (op = 0x30 ∧ w.a.toNat ≤ 1 ∧ w.p ≠ 0)
    (illegal → step s = .next { s with host := rest, responses := s.responses ++ [⟨.illegalRequest, 0⟩] }) ∧
    (¬ illegal → ∃ i, i.wellFormed = true ∧ encode i = w ∧ step s = exec i { s with host := rest })

/-- R45: every request that is answered gets one response; status and data are its two bytes with the numbers of the
table; status 3 is never produced and status 4 exactly for an illegal word; data is 0 with every error and, with OK, for
every operation but PXGET, whose data is the pixel, and FBRD, whose data is the byte. -/
def Obligations.EveryRequestGetsOneResponse : Prop :=
  (∀ r : Response, r.word.toNat = r.status.code.toNat * 256 + r.data.toNat) ∧
  ([Status.ok, .geometryError, .glyphRangeError, .transportError, .illegalRequest, .addressError].map
    fun e => e.code.toNat) = [0, 1, 2, 3, 4, 5] ∧
  ∀ (s t : State) (w : Request) (rest : List HostMove), s.host = .request w :: rest → step s = .next t →
    ∃ e d, t.responses = s.responses ++ [⟨e, d⟩] ∧ e ≠ .transportError ∧ (e ≠ .ok → d = 0) ∧
      ((∀ x y, decode w ≠ .legal (.pxget x y)) → (∀ idx, decode w ≠ .legal (.fbrd idx)) → d = 0) ∧
      (e = .illegalRequest ↔ ∃ why, decode w = .illegal why) ∧
      (∀ x y, decode w = .legal (.pxget x y) → e = .ok → d.toNat = (pixelAt s x.toNat y.toNat).toNat) ∧
      (∀ idx, decode w = .legal (.fbrd idx) → e = .ok → d = fbReadByte s.fb idx.toNat)

/-! ### The step and the host (10_state.md, 70_reset_and_hazards.md) -/

/-- R13: a legal request is performed, the host's further moves left for later; the same of a word put in front. -/
def Obligations.StepPerformsTheDecodedRequest : Prop :=
  (∀ (s : State) (w : Request) (rest : List HostMove) (i : Instr), s.host = .request w :: rest → decode w = .legal i →
    step s = exec i { s with host := rest }) ∧
  ∀ (s : State) (n : Nat) (i : Instr), n < 2 ^ 48 → decode (BitVec.ofNat 48 n) = .legal i →
    step (s.withFetchWord 48 n) = exec i s

/-- R111: with no move of the host pending the block is idle and keeps all its state (the model's reading, log 6). R24:
a host write changes one byte of HMEM, in the canonical form, and nothing else (log 7). -/
def Obligations.HostMovesBetweenOperations : Prop :=
  (∀ s : State, s.host = [] → step s = .next s) ∧
  ∀ (s : State) (a : Ptr) (v : Byte) (rest : List HostMove), s.host = .hmemWrite a v :: rest → s.hmem.wf = true →
    ∃ m : Memory, step s = .next { s with host := rest, hmem := m } ∧ m.wf = true ∧
      ∀ b, m.read b = if b = a.toNat then v else s.hmem.read b

/-- R26, R27: the control registers after reset, and that nothing has been sent. -/
def Obligations.ResetRegisterValues : Prop :=
  State.reset.curX = 0 ∧ State.reset.curY = 0 ∧ State.reset.winW.toNat = 84 ∧ State.reset.winH.toNat = 48 ∧
  State.reset.tx = []

/-- R113 and R28: a reset of the running block gives those values and a framebuffer of free bytes, and leaves HMEM and
the host's moves. That the response record starts anew is the model's choice (log 8), the reset count the model's own
field (log 2). -/
def Obligations.ResetMoveRestartsTheBlock : Prop :=
  (∀ k < 504, fbReadByte State.reset.fb k = Config.fbAtReset 0 k) ∧
  ∀ (s : State) (rest : List HostMove), s.host = .reset :: rest →
    ∃ fb : Framebuffer, step s = .next
        { fb := fb, curX := 0, curY := 0, winW := 84, winH := 48, tx := [], responses := [], hmem := s.hmem,
          host := rest, resets := s.resets + 1 } ∧
      ∀ k < 504, fbReadByte fb k = Config.fbAtReset s.resets k

/-! ### The framebuffer and its bit indexer (40_framebuffer_bit_indexer.md) -/

/-- R54: the pixel map is a bijection, its extremes, and what set, clear and get of pixels give. -/
def Obligations.PixelMapIsABijection : Prop :=
  (∀ x < 84, ∀ y < 48, fbIndex x y < 504 ∧ fbBit y < 8 ∧ fbIndex x y % 84 = x ∧ 8 * (fbIndex x y / 84) + fbBit y = y) ∧
  (∀ k < 504, ∀ b < 8, k % 84 < 84 ∧ 8 * (k / 84) + b < 48 ∧ fbIndex (k % 84) (8 * (k / 84) + b) = k ∧
    fbBit (8 * (k / 84) + b) = b) ∧
  fbIndex 0 0 = 0 ∧ fbBit 0 = 0 ∧ fbIndex 83 0 = 83 ∧ fbIndex 0 8 = 84 ∧ fbBit 8 = 0 ∧ fbIndex 83 47 = 503 ∧
  fbBit 47 = 7 ∧
  ∀ (x y x' y' v : Byte) (s : State), x.toNat < 84 → y.toNat < 48 → x'.toNat < 84 → y'.toNat < 48 → v.toNat ≤ 1 →
    ∃ t u, exec (.pxset x y v) s = .next t ∧ exec (.pxget x y) t = .next (answered t .ok v) ∧
      exec (.pxclr x y) t = .next u ∧ exec (.pxget x y) u = .next (answered u .ok 0) ∧
      ((x', y') ≠ (x, y) → ∃ d, exec (.pxget x' y') s = .next (answered s .ok d) ∧
        exec (.pxget x' y') t = .next (answered t .ok d) ∧ exec (.pxget x' y') u = .next (answered u .ok d))

/-- R55: PXSET, its encoding, its effect on exactly one bit of FB, and its GeometryError. -/
def Obligations.PxsetWritesExactlyOnePixel : Prop :=
  ∀ (x y v : Byte) (s : State),
    (v.toNat ≤ 1 → decode (.ofBytes 0x10 x y v 0 0) = .legal (.pxset x y v)) ∧
    (1 < v.toNat → ∃ why, decode (.ofBytes 0x10 x y v 0 0) = .illegal why) ∧
    (v.toNat ≤ 1 → x.toNat < 84 ∧ y.toNat < 48 → ∃ fb : Framebuffer,
      exec (.pxset x y v) s = .next { s with fb := fb, responses := s.responses ++ [⟨.ok, 0⟩] } ∧
      ∀ k < 504, ∀ j < 8, (fbReadByte fb k).getLsbD j =
        if k = x.toNat + 84 * (y.toNat / 8) ∧ j = y.toNat % 8 then decide (v = 1) else fbBitAt s k j) ∧
    (¬ (x.toNat < 84 ∧ y.toNat < 48) → exec (.pxset x y v) s = .next (answered s .geometryError 0))

/-- R56: PXCLR. -/
def Obligations.PxclrClearsExactlyOnePixel : Prop :=
  ∀ (x y : Byte) (s : State),
    decode (.ofBytes 0x11 x y 0 0 0) = .legal (.pxclr x y) ∧
    (x.toNat < 84 ∧ y.toNat < 48 → ∃ fb : Framebuffer,
      exec (.pxclr x y) s = .next { s with fb := fb, responses := s.responses ++ [⟨.ok, 0⟩] } ∧
      ∀ k < 504, ∀ j < 8, (fbReadByte fb k).getLsbD j =
        if k = x.toNat + 84 * (y.toNat / 8) ∧ j = y.toNat % 8 then false else fbBitAt s k j) ∧
    (¬ (x.toNat < 84 ∧ y.toNat < 48) → exec (.pxclr x y) s = .next (answered s .geometryError 0))

/-- R57: PXGET answers the pixel and changes nothing. -/
def Obligations.PxgetAnswersThePixel : Prop :=
  ∀ (x y : Byte) (s : State),
    decode (.ofBytes 0x12 x y 0 0 0) = .legal (.pxget x y) ∧
    (x.toNat < 84 ∧ y.toNat < 48 → ∃ d : Byte, exec (.pxget x y) s = .next (answered s .ok d) ∧
      d.toNat = (fbReadByte s.fb (x.toNat + 84 * (y.toNat / 8))).toNat / 2 ^ (y.toNat % 8) % 2) ∧
    (¬ (x.toNat < 84 ∧ y.toNat < 48) → exec (.pxget x y) s = .next (answered s .geometryError 0))

/-- R58: FBWR writes one byte of FB. -/
def Obligations.FbwrWritesExactlyOneByte : Prop :=
  ∀ (val : Byte) (idx : Ptr) (s : State),
    decode (.ofPtr 0x13 val 0 0 idx) = .legal (.fbwr val idx) ∧
    (idx.toNat < 504 → ∃ fb : Framebuffer,
      exec (.fbwr val idx) s = .next { s with fb := fb, responses := s.responses ++ [⟨.ok, 0⟩] } ∧
      ∀ k < 504, fbReadByte fb k = if k = idx.toNat then val else fbReadByte s.fb k) ∧
    (504 ≤ idx.toNat → exec (.fbwr val idx) s = .next (answered s .addressError 0))

/-- R59: FBRD answers one byte of FB and changes nothing. -/
def Obligations.FbrdAnswersTheByte : Prop :=
  ∀ (idx : Ptr) (s : State),
    decode (.ofPtr 0x14 0 0 0 idx) = .legal (.fbrd idx) ∧
    (idx.toNat < 504 → exec (.fbrd idx) s = .next (answered s .ok (fbReadByte s.fb idx.toNat))) ∧
    (504 ≤ idx.toNat → exec (.fbrd idx) s = .next (answered s .addressError 0))

/-! ### The window address translator (41_window_address_translator.md) -/

/-- R62, with the bounds of R60 and the packet of R61: SETWIN on a rectangle inside 84 by 48 of even width, and its
GeometryError on every other. -/
def Obligations.SetwinSendsThePacketOrRefuses : Prop :=
  ∀ (x y w h : Byte) (s : State),
    decode (.ofBytes 0x20 x y w h 0) = .legal (.setwin x y w h) ∧
    (w.toNat % 2 = 0 ∧ w.toNat ≠ 0 ∧ h.toNat ≠ 0 ∧ x.toNat + w.toNat ≤ 84 ∧ y.toNat + h.toNat ≤ 48 →
      exec (.setwin x y w h) s = .next
        { s with
          winW := w
          winH := h
          tx := s.tx ++ packet Config.chip x.toNat y.toNat w.toNat h.toNat
          responses := s.responses ++ [⟨.ok, 0⟩] }) ∧
    (¬ (w.toNat % 2 = 0 ∧ w.toNat ≠ 0 ∧ h.toNat ≠ 0 ∧ x.toNat + w.toNat ≤ 84 ∧ y.toNat + h.toNat ≤ 48) →
      exec (.setwin x y w h) s = .next (answered s .geometryError 0))

/-- R64: RSTWIN, from every state. -/
def Obligations.RstwinRecentresAndHomes : Prop :=
  ∀ s : State,
    decode (.ofBytes 0x21 0 0 0 0 0) = .legal .rstwin ∧
    exec .rstwin s = .next
      { s with
        curX := 0
        curY := 0
        winW := 84
        winH := 48
        tx := s.tx ++ packet Config.chip 0 0 84 48
        responses := s.responses ++ [⟨.ok, 0⟩] }

/-! ### The pixel codec (42_pixel_codec.md) -/

/-- R67 with the colours of R66: the three bytes of a pair, the four triples that occur, and that the three are sent as
data items. -/
def Obligations.PairPackingLayout : Prop :=
  colour true = 0x000 ∧ colour false = 0xFFF ∧
  (∀ p1 p2 : Colour, packPair p1 p2 =
    [BitVec.ofNat 8 (p1.toNat / 16), BitVec.ofNat 8 (p1.toNat % 16 * 16 + p2.toNat / 256),
      BitVec.ofNat 8 (p2.toNat % 256)]) ∧
  (∀ a b : Bool, packPair (colour a) (colour b) = triple a b) ∧
  ∀ (src : Source) (winW i : Nat),
    pairItems src winW i = dataItems (packPair (colour (sampleAt src winW i)) (colour (sampleAt src winW (i + 1))))

/-- R72: packing is a bijection between pairs of 12-bit values and triples of bytes, and the samples come back from it. -/
def Obligations.PackingIsInvertible : Prop :=
  (∀ p1 p2 : Colour, ∃ b0 b1 b2, packPair p1 p2 = [b0, b1, b2] ∧ unpackTriple b0 b1 b2 = (p1, p2)) ∧
  (∀ b0 b1 b2 : Byte, packPair (unpackTriple b0 b1 b2).1 (unpackTriple b0 b1 b2).2 = [b0, b1, b2]) ∧
  ∀ a b : Bool, colour a = colour b → a = b

/-- R71, with R66 to R70: the three modes of STREAM in every state whose window is legal (I3, I4 of R18), their
encodings, and their two errors in order. -/
def Obligations.StreamSendsTheWindow : Prop :=
  ∀ (addr : Ptr) (s : State), WindowWidthOk s → WindowHeightOk s →
    let w := s.winW.toNat
    let h := s.winH.toNat
    let streamed (i : Instr) (pix : Nat → Nat → Bool) : Prop := ∃ items, IsStream items w h pix ∧
      exec i s = .next { s with tx := s.tx ++ items, responses := s.responses ++ [⟨.ok, 0⟩] }
    decode (.ofPtr 0x30 0 0 0 0) = .legal .streamNone ∧ decode (.ofPtr 0x30 1 0 0 0) = .legal .streamFb ∧
    decode (.ofPtr 0x30 2 0 0 addr) = .legal (.streamHmem addr) ∧
    streamed .streamNone (fun _ _ => false) ∧
    (w = 84 ∨ h ≤ 8 → streamed .streamFb (fun px py => fbBitAt s (px + w * (py / 8)) (py % 8))) ∧
    (¬ (w = 84 ∨ h ≤ 8) → exec .streamFb s = .next (answered s .geometryError 0)) ∧
    (w = 84 ∨ h ≤ 8 → addr.toNat + w * ((h + 7) / 8) ≤ 65536 →
      streamed (.streamHmem addr) (fun px py => (s.hmem.read (addr.toNat + (px + w * (py / 8)))).getLsbD (py % 8))) ∧
    (w = 84 ∨ h ≤ 8 → 65536 < addr.toNat + w * ((h + 7) / 8) →
      exec (.streamHmem addr) s = .next (answered s .addressError 0)) ∧
    (¬ (w = 84 ∨ h ≤ 8) → exec (.streamHmem addr) s = .next (answered s .geometryError 0))

/-- R66, R71: STREAM NONE sends `3 * (WIN_W * WIN_H / 2)` bytes, all 0xFF, whatever the window. What this adds to
StreamSendsTheWindow are windows that break I3 or I4 of R18, and there, for an odd number of pixels, the count is the
model's choice (log 13, DESIGN CHOICE): R70's own `3 * WIN_W * WIN_H / 2` differs. -/
def Obligations.StreamNoneIsAllWhite : Prop :=
  ∀ s : State, exec .streamNone s = .next
    { s with
      tx := s.tx ++ dataItems (List.replicate (3 * (s.winW.toNat * s.winH.toNat / 2)) 0xFF)
      responses := s.responses ++ [⟨.ok, 0⟩] }

/-! ### The glyph ROM and row sequencer (43_glyph_text_engine.md) -/

/-- R77, with the 83 items of R76 and the cursor movement of R78: PUTCHAR of a renderable code in every state of the
invariant, and its GlyphRangeError in every state. -/
def Obligations.PutcharDrawsTheCellAndAdvances : Prop :=
  ∀ (code : Byte) (s : State),
    decode (.ofBytes 0x40 code 0 0 0 0) = .legal (.putchar code) ∧
    (Inv s → Renderable code → ∃ (items : List TxItem) (x y : Byte),
      exec (.putchar code) s = .next
        { s with
          curX := x
          curY := y
          tx := s.tx ++ (packet Config.chip s.curX.toNat s.curY.toNat 6 8 ++ items)
          responses := s.responses ++ [⟨.ok, 0⟩] } ∧
      items.length = 72 ∧ IsStream items 6 8 (cellPixel Config.chip code) ∧
      let across := s.curX.toNat + 6
      let down := if s.winW.toNat < across + 6 then s.curY.toNat + 8 else s.curY.toNat
      x.toNat = (if s.winW.toNat < across + 6 then 0 else across) ∧
      y.toNat = (if s.winH.toNat < down + 8 then 0 else down)) ∧
    (¬ Renderable code → exec (.putchar code) s = .next (answered s .glyphRangeError 0))

/-- R79: one turn of PUTSTR: the terminator, a byte without a glyph, and a character, after which the rest of the string
is PUTSTR from the next address, or AddressError past 65535. -/
def Obligations.PutstrAppliesPutcharInTurn : Prop :=
  ∀ (addr : Ptr) (s : State),
    let ch := s.hmem.read addr.toNat
    decode (.ofPtr 0x41 0 0 0 addr) = .legal (.putstr addr) ∧
    (ch = 0 → exec (.putstr addr) s = .next (answered s .ok 0)) ∧
    (ch ≠ 0 → ¬ Renderable ch → exec (.putstr addr) s = .next (answered s .glyphRangeError 0)) ∧
    (Inv s → Renderable ch → ∃ t : State, Inv t ∧ t.hmem = s.hmem ∧ t.responses = s.responses ∧
      exec (.putchar ch) s = .next (answered t .ok 0) ∧
      (addr.toNat < 65535 → exec (.putstr addr) s = exec (.putstr (addr + 1)) t) ∧
      (addr.toNat = 65535 → exec (.putstr addr) s = .next (answered t .addressError 0)))

/-- R79, R106, R123: PUTSTR ends in every state of the invariant: after `n` drawn characters, 83 items each, with the
status the byte there (or the end of HMEM) gives, and with everything but TX, the cursor and the response as before. -/
def Obligations.PutstrStopsAtTheFirstUndrawnByte : Prop :=
  ∀ (addr : Ptr) (s : State), Inv s →
    ∃ (n : Nat) (x y : Byte) (items : List TxItem) (e : Status),
      exec (.putstr addr) s = .next
        { s with curX := x, curY := y, tx := s.tx ++ items, responses := s.responses ++ [⟨e, 0⟩] } ∧
      addr.toNat + n ≤ 65536 ∧ (∀ k < n, Renderable (s.hmem.read (addr.toNat + k))) ∧
      (addr.toNat + n < 65536 → ¬ Renderable (s.hmem.read (addr.toNat + n))) ∧
      e = (if addr.toNat + n = 65536 then .addressError
        else if s.hmem.read (addr.toNat + n) = 0 then .ok else .glyphRangeError) ∧
      items.length = 83 * n

/-- R82: `n` characters from (0, 0) in the default window leave the cursor at cell `(n % 14, (n / 14) % 6)`. -/
def Obligations.TextFillsTheGrid : Prop :=
  ∀ (n : Nat) (addr : Ptr) (s : State), Inv s → s.curX = 0 → s.curY = 0 → s.winW = 84 → s.winH = 48 →
    addr.toNat + n < 65536 → (∀ k < n, Renderable (s.hmem.read (addr.toNat + k))) → s.hmem.read (addr.toNat + n) = 0 →
    ∃ t, exec (.putstr addr) s = .next t ∧ t.curX.toNat = 6 * (n % 14) ∧ t.curY.toNat = 8 * (n / 14 % 6) ∧
      t.tx.length = s.tx.length + 83 * n ∧ t.responses = s.responses ++ [⟨.ok, 0⟩] ∧ t.fb = s.fb

/-- R80: SETCUR in every state. -/
def Obligations.SetcurAppliesEachAxisAlone : Prop :=
  ∀ (cx cy : Byte) (s : State),
    decode (.ofBytes 0x42 cx cy 0 0 0) = .legal (.setcur cx cy) ∧
    ∃ x y : Byte, exec (.setcur cx cy) s = .next
        { s with curX := x, curY := y, responses := s.responses ++ [⟨.ok, 0⟩] } ∧
      (cx.toNat * 6 + 6 ≤ 84 → x.toNat = cx.toNat * 6) ∧ (84 < cx.toNat * 6 + 6 → x = s.curX) ∧
      (cy.toNat * 8 + 8 ≤ 48 → y.toNat = cy.toNat * 8) ∧ (48 < cy.toNat * 8 + 8 → y = s.curY) ∧
      (cx.toNat * 6 + 6 ≤ 84 ↔ cx.toNat ≤ 13) ∧ (cy.toNat * 8 + 8 ≤ 48 ↔ cy.toNat ≤ 5)

/-- R81: CLEAR in every state: the full window's packet and 6048 bytes 0xFF; FB is not touched. -/
def Obligations.ClearBlanksThePanel : Prop :=
  ∀ s : State,
    decode (.ofBytes 0x43 0 0 0 0 0) = .legal .clear ∧
    exec .clear s = .next
      { s with
        curX := 0
        curY := 0
        winW := 84
        winH := 48
        tx := s.tx ++ (packet Config.chip 0 0 84 48 ++ dataItems (List.replicate 6048 0xFF))
        responses := s.responses ++ [⟨.ok, 0⟩] }

/-! ### The bitmap transcoder (44_bitmap_transcoder.md) -/

/-- R92, R94 (a), with the header of R83 and R84, the data of R85 and R86, the threshold of R88 and R89 and the loop of
R93: an accepted import gives each pixel of the target rectangle its own sample, compared
with the clamped threshold, and changes no other pixel and nothing else. -/
def Obligations.ImpbmpWritesTheTargetRectangle : Prop :=
  ∀ (xpos ypos thr : Byte) (addr : Ptr) (s : State),
    let byteAt (k : Nat) : Nat := (s.hmem.read (addr.toNat + k)).toNat
    let doff := byteAt 10
    let width := byteAt 18
    let height := byteAt 22
    let stride := width / 2 + (4 - width / 2 % 4) % 4
    let nibble (r cx : Nat) : Nat :=
      if cx % 2 = 0 then byteAt (doff + r * stride + cx / 2) / 16 else byteAt (doff + r * stride + cx / 2) % 16
    addr.toNat + 22 ≤ 65535 → 0 < height → width % 2 = 0 → xpos.toNat + width ≤ 84 → height ≤ ypos.toNat + 1 →
    ypos.toNat ≤ 47 →
    (0 < width → addr.toNat + doff + (height - 1) * stride + width / 2 - 1 ≤ 65535) →
    ∃ fb : Framebuffer,
      exec (.impbmp xpos ypos thr addr) s = .next { s with fb := fb, responses := s.responses ++ [⟨.ok, 0⟩] } ∧
      ∀ x < 84, ∀ y < 48, (fbReadByte fb (x + 84 * (y / 8))).getLsbD (y % 8) =
        if xpos.toNat ≤ x ∧ x < xpos.toNat + width ∧ ypos.toNat + 1 ≤ y + height ∧ y ≤ ypos.toNat then
          decide (min thr.toNat 14 < nibble (ypos.toNat - y) (x - xpos.toNat))
        else pixelAt s x y

/-- R91, with R87 and R90: which check gives the status, in order, and that an import passing all of them is answered
OK. -/
def Obligations.ImpbmpChecksInOrder : Prop :=
  ∀ (xpos ypos thr : Byte) (addr : Ptr) (s : State),
    let byteAt (k : Nat) : Nat := (s.hmem.read (addr.toNat + k)).toNat
    let doff := byteAt 10
    let width := byteAt 18
    let height := byteAt 22
    let a1 := addr.toNat + 22 ≤ 65535
    let p := 0 < height ∧ width % 2 = 0 ∧ xpos.toNat + width ≤ 84 ∧ height ≤ ypos.toNat + 1 ∧ ypos.toNat ≤ 47
    let a2 := 0 < width →
      addr.toNat + doff + (height - 1) * (width / 2 + (4 - width / 2 % 4) % 4) + width / 2 - 1 ≤ 65535
    decode (.ofPtr 0x50 xpos ypos thr addr) = .legal (.impbmp xpos ypos thr addr) ∧
    (¬ a1 → exec (.impbmp xpos ypos thr addr) s = .next (answered s .addressError 0)) ∧
    (a1 → ¬ p → exec (.impbmp xpos ypos thr addr) s = .next (answered s .geometryError 0)) ∧
    (a1 → p → ¬ a2 → exec (.impbmp xpos ypos thr addr) s = .next (answered s .addressError 0)) ∧
    (a1 → p → a2 → ∃ fb : Framebuffer,
      exec (.impbmp xpos ypos thr addr) s = .next { s with fb := fb, responses := s.responses ++ [⟨.ok, 0⟩] })

/-- R93, corner case: the same bitmap imported twice gives the same framebuffer. -/
def Obligations.ImpbmpIsIdempotent : Prop :=
  ∀ (xpos ypos thr : Byte) (addr : Ptr) (s t : State), exec (.impbmp xpos ypos thr addr) s = .next t →
    ∃ u, exec (.impbmp xpos ypos thr addr) t = .next u ∧ u.fb = t.fb

/-- R86 and 93_implementation_defined.md U16: the padding and every header byte but those at 10, 18 and 22 cannot
influence an import. -/
def Obligations.ImpbmpReadsOnlyHeaderAndData : Prop :=
  ∀ (xpos ypos thr : Byte) (addr : Ptr) (s : State) (m : Memory),
    (∀ k ∈ [10, 18, 22], m.read (addr.toNat + k) = s.hmem.read (addr.toNat + k)) →
    (let byteAt (k : Nat) : Nat := (s.hmem.read (addr.toNat + k)).toNat
     let half := byteAt 18 / 2
     ∀ r < byteAt 22, ∀ k < half,
      m.read (addr.toNat + (byteAt 10 + r * (half + (4 - half % 4) % 4) + k)) =
        s.hmem.read (addr.toNat + (byteAt 10 + r * (half + (4 - half % 4) % 4) + k))) →
    ∃ (fb : Framebuffer) (e : Status),
      exec (.impbmp xpos ypos thr addr) s = .next { s with fb := fb, responses := s.responses ++ [⟨e, 0⟩] } ∧
      exec (.impbmp xpos ypos thr addr) { s with hmem := m } =
        .next { s with fb := fb, hmem := m, responses := s.responses ++ [⟨e, 0⟩] }

/-! ### The compatibility surface (45_compat_surface.md) -/

/-- R96: INIT in every state. -/
def Obligations.InitSendsTheBringUpAndHomes : Prop :=
  ∀ s : State,
    decode (.ofBytes 0x60 0 0 0 0 0) = .legal .init ∧
    exec .init s = .next
      { s with
        curX := 0
        curY := 0
        winW := 84
        winH := 48
        tx := s.tx ++ Config.chip.initTx
        responses := s.responses ++ [⟨.ok, 0⟩] }

/-- R97: DRAWFULL sends the 504 bytes at `addr` through the full window, and its AddressError; the cursor follows the
open parameter. -/
def Obligations.DrawfullSendsTheBuffer : Prop :=
  ∀ (addr : Ptr) (s : State),
    decode (.ofPtr 0x61 0 0 0 addr) = .legal (.drawfull addr) ∧
    (65536 < addr.toNat + 504 → exec (.drawfull addr) s = .next (answered s .addressError 0)) ∧
    (addr.toNat + 504 ≤ 65536 → ∃ items,
      IsStream items 84 48 (fun px py => (s.hmem.read (addr.toNat + (px + 84 * (py / 8)))).getLsbD (py % 8)) ∧
      items.length = 6048 ∧
      exec (.drawfull addr) s = .next
        { s with
          curX := if Config.chip.drawfullResetsCursor then 0 else s.curX
          curY := if Config.chip.drawfullResetsCursor then 0 else s.curY
          winW := 84
          winH := 48
          tx := s.tx ++ (packet Config.chip 0 0 84 48 ++ items)
          responses := s.responses ++ [⟨.ok, 0⟩] })

/-- R98: DISPBUF in every state, and that it is SETWIN 0, 0, 84, 48 followed by STREAM FB plus the optional cursor
reset. -/
def Obligations.DispbufIsSetwinThenStreamFb : Prop :=
  ∀ s : State, ∃ (items : List TxItem) (t u : State),
    decode (.ofBytes 0x62 0 0 0 0 0) = .legal .dispbuf ∧
    IsStream items 84 48 (pixelAt s) ∧ items.length = 6048 ∧
    exec .dispbuf s = .next
      { s with
        curX := if Config.chip.drawfullResetsCursor then 0 else s.curX
        curY := if Config.chip.drawfullResetsCursor then 0 else s.curY
        winW := 84
        winH := 48
        tx := s.tx ++ (packet Config.chip 0 0 84 48 ++ items)
        responses := s.responses ++ [⟨.ok, 0⟩] } ∧
    exec (.setwin 0 0 84 48) s = .next t ∧ exec .streamFb t = .next u ∧
    exec .dispbuf s = .next
      { u with
        curX := if Config.chip.drawfullResetsCursor then 0 else s.curX
        curY := if Config.chip.drawfullResetsCursor then 0 else s.curY
        responses := s.responses ++ [⟨.ok, 0⟩] }

/-- R98, "It is `DRAWFULL` with FB as the buffer": where HMEM holds a copy of FB the two do the same. -/
def Obligations.DrawfullOfACopyIsDispbuf : Prop :=
  ∀ (addr : Ptr) (s : State), addr.toNat + 504 ≤ 65536 →
    (∀ k < 504, s.hmem.read (addr.toNat + k) = fbReadByte s.fb k) → exec (.drawfull addr) s = exec .dispbuf s

/-! ### The whole machine -/

/-- R18: I1 to I4, and the canonical form of HMEM, are kept by every step, from every state that has them. -/
def Obligations.EveryStepKeepsTheInvariant : Prop :=
  ∀ s t : State, Inv s → step s = .next t → Inv t

/-- R18, R26, R27: the invariant holds after reset. -/
def Obligations.ResetMeetsTheInvariant : Prop := Inv State.reset

/-- R100, R112: "There is no third outcome": from every state of the invariant every step answers a next state. -/
def Obligations.NoStepStopsTheMachine : Prop := ∀ s : State, Inv s → ∃ t, step s = .next t

/-- The model's one stop (log 11), said whole: only STREAM FB ends in a fault, exactly where the window registers ask for
more source bytes than FB has, which I3 and I4 of R18 exclude; nothing is refused. -/
def Obligations.StreamFbAloneCanStop : Prop :=
  (∀ (i : Instr) (s : State), (∃ t, exec i s = .next t) ∨
    (i = .streamFb ∧ exec i s = .fault .sourceBeyondFramebuffer ∧ (s.winW.toNat = 84 ∨ s.winH.toNat ≤ 8) ∧
      504 < s.winW.toNat * ((s.winH.toNat + 7) / 8))) ∧
  ∀ s : State, (s.winW.toNat = 84 ∨ s.winH.toNat ≤ 8) → 504 < s.winW.toNat * ((s.winH.toNat + 7) / 8) →
    exec .streamFb s = .fault .sourceBeyondFramebuffer ∧ ¬ (WindowWidthOk s ∧ WindowHeightOk s)

/-- R13, R45, R100: every list of moves runs to its end, through errors too, and every request gets its response. -/
def Obligations.EveryRequestListRunsToItsEnd : Prop :=
  ∀ (ws : List Request) (s : State), Inv s → s.host = ws.map .request →
    ∃ t, Host.Core.run Sys2Proof.core ws.length s = .next t ∧ t.host = [] ∧ Inv t ∧
      t.responses.length = s.responses.length + ws.length

/-- R106 point 3: an error of any operation but PUTSTR leaves the state exactly as it was, but for the response. -/
def Obligations.ErrorsChangeNothingButPutstr : Prop :=
  ∀ (i : Instr) (s t : State) (e : Status) (d : Byte), (∀ addr, i ≠ .putstr addr) → exec i s = .next t →
    t.responses = s.responses ++ [⟨e, d⟩] → e ≠ .ok → t = answered s e 0

/-- R101, last sentence: the operations that cannot raise anything but IllegalRequest answer OK in every state. -/
def Obligations.FiveOperationsAlwaysAnswerOk : Prop :=
  ∀ (i : Instr) (s : State), (i = .rstwin ∨ (∃ cx cy, i = .setcur cx cy) ∨ i = .clear ∨ i = .init ∨ i = .dispbuf) →
    ∃ t, exec i s = .next t ∧ t.responses = s.responses ++ [⟨.ok, 0⟩]

/-- R30 and R21, the writers of each piece of state, operation by operation; PUTCHAR and PUTSTR restore the window
registers they narrow (R77), and nothing writes HMEM (R24). -/
def Obligations.OnlyTheListedOperationsWrite : Prop :=
  ∀ (i : Instr) (s t : State), exec i s = .next t →
    t.hmem = s.hmem ∧ t.host = s.host ∧ t.resets = s.resets ∧
    (t.fb = s.fb ∨ (∃ x y v, i = .pxset x y v) ∨ (∃ x y, i = .pxclr x y) ∨ (∃ v k, i = .fbwr v k) ∨
      ∃ x y h a, i = .impbmp x y h a) ∧
    ((t.curX = s.curX ∧ t.curY = s.curY) ∨ (∃ c, i = .putchar c) ∨ (∃ a, i = .putstr a) ∨ (∃ x y, i = .setcur x y) ∨
      i = .clear ∨ i = .rstwin ∨ i = .init ∨
      (Config.chip.drawfullResetsCursor = true ∧ (i = .dispbuf ∨ ∃ a, i = .drawfull a))) ∧
    ((t.winW = s.winW ∧ t.winH = s.winH) ∨ (∃ x y w h, i = .setwin x y w h) ∨ i = .rstwin ∨ i = .clear ∨ i = .init ∨
      i = .dispbuf ∨ ∃ a, i = .drawfull a) ∧
    (t.tx = s.tx ∨ (∃ x y w h, i = .setwin x y w h) ∨ i = .rstwin ∨ i = .streamNone ∨ i = .streamFb ∨
      (∃ a, i = .streamHmem a) ∨ (∃ c, i = .putchar c) ∨ (∃ a, i = .putstr a) ∨ i = .clear ∨ i = .init ∨
      (∃ a, i = .drawfull a) ∨ i = .dispbuf)

/-- R23 and R106: TX and the responses only grow, and what they held before cannot influence any operation: "The block
cannot read TX", and no error is latched. -/
def Obligations.HistoryIsNeverRead : Prop :=
  ∀ (i : Instr) (s t : State), exec i s = .next t →
    ∃ items rs, ∀ tx responses, exec i { s with tx := tx, responses := responses } =
      .next { t with tx := tx ++ items, responses := responses ++ rs }

/-- R122: the number of items each operation answered OK appends. -/
def Obligations.ItemCountsOfEachOperation : Prop :=
  ∀ (i : Instr) (s t : State) (d : Byte), Inv s → exec i s = .next t → t.responses = s.responses ++ [⟨.ok, d⟩] →
    match i with
    | .pxset _ _ _ | .pxclr _ _ | .pxget _ _ | .fbwr _ _ | .fbrd _ | .setcur _ _ | .impbmp _ _ _ _ =>
      t.tx.length = s.tx.length
    | .setwin _ _ _ _ | .rstwin => t.tx.length = s.tx.length + 11
    | .streamNone | .streamFb | .streamHmem _ =>
      2 * t.tx.length = 2 * s.tx.length + 3 * (s.winW.toNat * s.winH.toNat)
    | .putchar _ => t.tx.length = s.tx.length + 83
    | .putstr _ => ∃ n, t.tx.length = s.tx.length + 83 * n
    | .clear | .drawfull _ | .dispbuf => t.tx.length = s.tx.length + 6059
    | .init => t.tx.length = s.tx.length + Config.chip.initTx.length

/-! ### What a panel makes of TX (the reference receiver of 95_test_vectors.md, an observer of the spec's own) -/

/-- E2 and R72: whatever a panel held and expected before, the items of DISPBUF show it exactly the framebuffer, for
every configuration whose three commands differ. The receiver is the spec's test tool (log 18). -/
def Obligations.PanelShowsTheFramebufferAfterDispbuf : Prop :=
  ∀ (c : Config) (p : Panel) (s t : State), commandsDiffer c → dispbufOp c s = .next t →
    ∀ x < 84, ∀ y < 48,
      (p.receive c (t.tx.drop s.tx.length)).pixel (x + c.xOfs) (y + c.yOfs) = some (colour (pixelAt s x y))

/-- E6, R25 and R118: after PUTCHAR the panel shows the glyph's cell at the cursor and still addresses that cell, while
the block's window registers are what they were before. The receiver is the spec's test tool (log 18). -/
def Obligations.PanelShowsTheGlyphAfterPutchar : Prop :=
  ∀ (c : Config) (p : Panel) (code : Byte) (s t : State), commandsDiffer c → Inv s → Renderable code →
    putcharOp c code s = .next t →
    let q := p.receive c (t.tx.drop s.tx.length)
    (∀ px < 6, ∀ py < 8, q.pixel (s.curX.toNat + px + c.xOfs) (s.curY.toNat + py + c.yOfs) =
      some (colour (cellPixel c code px py))) ∧
    q.xs = s.curX.toNat + c.xOfs ∧ q.xe = s.curX.toNat + 5 + c.xOfs ∧
    q.ys = s.curY.toNat + c.yOfs ∧ q.ye = s.curY.toNat + 7 + c.yOfs ∧
    t.winW = s.winW ∧ t.winH = s.winH

/-! ### The host's discipline (70_reset_and_hazards.md) -/

/-- R115: as long as the host keeps the discipline, every STREAM it issues directly follows, in TX, the packet of the very
window whose pixels it sends, wherever the run started and however many steps it took (the predicate is log 21). -/
def Obligations.DisciplinedStreamsFollowTheirPacket : Prop :=
  ∀ (n : Nat) (s t : State) (w : Request) (rest : List HostMove), streamsPacketed s = true →
    Host.Core.run Sys2Proof.core n s = .next t → t.host = .request w :: rest →
    (decode w = .legal .streamNone ∨ decode w = .legal .streamFb ∨ ∃ addr, decode w = .legal (.streamHmem addr)) →
    ∃ x y before, x + t.winW.toNat ≤ 84 ∧ y + t.winH.toNat ≤ 48 ∧
      t.tx = before ++ packet Config.chip x y t.winW.toNat t.winH.toNat
end

