-- ==== Sys2Proof/Laws/State.lean ====
section
/-! SUPPORT. One lemma per field per update of State, so that no proof unfolds a record update. -/

namespace Sys2Proof.Machine

variable (s : State)

@[simp] theorem State.setFb_fb (v : Framebuffer) : (s.setFb v).fb = v := rfl
@[simp] theorem State.setFb_curX (v : Framebuffer) : (s.setFb v).curX = s.curX := rfl
@[simp] theorem State.setFb_curY (v : Framebuffer) : (s.setFb v).curY = s.curY := rfl
@[simp] theorem State.setFb_winW (v : Framebuffer) : (s.setFb v).winW = s.winW := rfl
@[simp] theorem State.setFb_winH (v : Framebuffer) : (s.setFb v).winH = s.winH := rfl
@[simp] theorem State.setFb_tx (v : Framebuffer) : (s.setFb v).tx = s.tx := rfl
@[simp] theorem State.setFb_responses (v : Framebuffer) : (s.setFb v).responses = s.responses := rfl
@[simp] theorem State.setFb_hmem (v : Framebuffer) : (s.setFb v).hmem = s.hmem := rfl
@[simp] theorem State.setFb_host (v : Framebuffer) : (s.setFb v).host = s.host := rfl
@[simp] theorem State.setFb_resets (v : Framebuffer) : (s.setFb v).resets = s.resets := rfl

@[simp] theorem State.setCursor_fb (x y : Nat) : (s.setCursor x y).fb = s.fb := rfl
@[simp] theorem State.setCursor_curX (x y : Nat) : (s.setCursor x y).curX = BitVec.ofNat 8 x := rfl
@[simp] theorem State.setCursor_curY (x y : Nat) : (s.setCursor x y).curY = BitVec.ofNat 8 y := rfl
@[simp] theorem State.setCursor_winW (x y : Nat) : (s.setCursor x y).winW = s.winW := rfl
@[simp] theorem State.setCursor_winH (x y : Nat) : (s.setCursor x y).winH = s.winH := rfl
@[simp] theorem State.setCursor_tx (x y : Nat) : (s.setCursor x y).tx = s.tx := rfl
@[simp] theorem State.setCursor_responses (x y : Nat) : (s.setCursor x y).responses = s.responses := rfl
@[simp] theorem State.setCursor_hmem (x y : Nat) : (s.setCursor x y).hmem = s.hmem := rfl
@[simp] theorem State.setCursor_host (x y : Nat) : (s.setCursor x y).host = s.host := rfl
@[simp] theorem State.setCursor_resets (x y : Nat) : (s.setCursor x y).resets = s.resets := rfl

@[simp] theorem State.setWindowSize_fb (w h : Nat) : (s.setWindowSize w h).fb = s.fb := rfl
@[simp] theorem State.setWindowSize_curX (w h : Nat) : (s.setWindowSize w h).curX = s.curX := rfl
@[simp] theorem State.setWindowSize_curY (w h : Nat) : (s.setWindowSize w h).curY = s.curY := rfl
@[simp] theorem State.setWindowSize_winW (w h : Nat) : (s.setWindowSize w h).winW = BitVec.ofNat 8 w := rfl
@[simp] theorem State.setWindowSize_winH (w h : Nat) : (s.setWindowSize w h).winH = BitVec.ofNat 8 h := rfl
@[simp] theorem State.setWindowSize_tx (w h : Nat) : (s.setWindowSize w h).tx = s.tx := rfl
@[simp] theorem State.setWindowSize_responses (w h : Nat) : (s.setWindowSize w h).responses = s.responses := rfl
@[simp] theorem State.setWindowSize_hmem (w h : Nat) : (s.setWindowSize w h).hmem = s.hmem := rfl
@[simp] theorem State.setWindowSize_host (w h : Nat) : (s.setWindowSize w h).host = s.host := rfl
@[simp] theorem State.setWindowSize_resets (w h : Nat) : (s.setWindowSize w h).resets = s.resets := rfl

@[simp] theorem State.send_fb (items : List TxItem) : (s.send items).fb = s.fb := rfl
@[simp] theorem State.send_curX (items : List TxItem) : (s.send items).curX = s.curX := rfl
@[simp] theorem State.send_curY (items : List TxItem) : (s.send items).curY = s.curY := rfl
@[simp] theorem State.send_winW (items : List TxItem) : (s.send items).winW = s.winW := rfl
@[simp] theorem State.send_winH (items : List TxItem) : (s.send items).winH = s.winH := rfl
@[simp] theorem State.send_tx (items : List TxItem) : (s.send items).tx = s.tx ++ items := rfl
@[simp] theorem State.send_responses (items : List TxItem) : (s.send items).responses = s.responses := rfl
@[simp] theorem State.send_hmem (items : List TxItem) : (s.send items).hmem = s.hmem := rfl
@[simp] theorem State.send_host (items : List TxItem) : (s.send items).host = s.host := rfl
@[simp] theorem State.send_resets (items : List TxItem) : (s.send items).resets = s.resets := rfl

@[simp] theorem State.respond_fb (d : Byte) : (s.respond d).fb = s.fb := rfl
@[simp] theorem State.respond_curX (d : Byte) : (s.respond d).curX = s.curX := rfl
@[simp] theorem State.respond_curY (d : Byte) : (s.respond d).curY = s.curY := rfl
@[simp] theorem State.respond_winW (d : Byte) : (s.respond d).winW = s.winW := rfl
@[simp] theorem State.respond_winH (d : Byte) : (s.respond d).winH = s.winH := rfl
@[simp] theorem State.respond_tx (d : Byte) : (s.respond d).tx = s.tx := rfl
@[simp] theorem State.respond_responses (d : Byte) : (s.respond d).responses = s.responses ++ [⟨.ok, d⟩] := rfl
@[simp] theorem State.respond_hmem (d : Byte) : (s.respond d).hmem = s.hmem := rfl
@[simp] theorem State.respond_host (d : Byte) : (s.respond d).host = s.host := rfl
@[simp] theorem State.respond_resets (d : Byte) : (s.respond d).resets = s.resets := rfl

@[simp] theorem State.raise_fb (e : Status) : (s.raise e).fb = s.fb := rfl
@[simp] theorem State.raise_curX (e : Status) : (s.raise e).curX = s.curX := rfl
@[simp] theorem State.raise_curY (e : Status) : (s.raise e).curY = s.curY := rfl
@[simp] theorem State.raise_winW (e : Status) : (s.raise e).winW = s.winW := rfl
@[simp] theorem State.raise_winH (e : Status) : (s.raise e).winH = s.winH := rfl
@[simp] theorem State.raise_tx (e : Status) : (s.raise e).tx = s.tx := rfl
@[simp] theorem State.raise_responses (e : Status) : (s.raise e).responses = s.responses ++ [⟨e, 0⟩] := rfl
@[simp] theorem State.raise_hmem (e : Status) : (s.raise e).hmem = s.hmem := rfl
@[simp] theorem State.raise_host (e : Status) : (s.raise e).host = s.host := rfl
@[simp] theorem State.raise_resets (e : Status) : (s.raise e).resets = s.resets := rfl

@[simp] theorem State.hostWrite_fb (a : Ptr) (v : Byte) : (s.hostWrite a v).fb = s.fb := rfl
@[simp] theorem State.hostWrite_curX (a : Ptr) (v : Byte) : (s.hostWrite a v).curX = s.curX := rfl
@[simp] theorem State.hostWrite_curY (a : Ptr) (v : Byte) : (s.hostWrite a v).curY = s.curY := rfl
@[simp] theorem State.hostWrite_winW (a : Ptr) (v : Byte) : (s.hostWrite a v).winW = s.winW := rfl
@[simp] theorem State.hostWrite_winH (a : Ptr) (v : Byte) : (s.hostWrite a v).winH = s.winH := rfl
@[simp] theorem State.hostWrite_tx (a : Ptr) (v : Byte) : (s.hostWrite a v).tx = s.tx := rfl
@[simp] theorem State.hostWrite_responses (a : Ptr) (v : Byte) : (s.hostWrite a v).responses = s.responses := rfl
@[simp] theorem State.hostWrite_hmem (a : Ptr) (v : Byte) : (s.hostWrite a v).hmem = s.hmem.write a.toNat v := rfl
@[simp] theorem State.hostWrite_host (a : Ptr) (v : Byte) : (s.hostWrite a v).host = s.host := rfl
@[simp] theorem State.hostWrite_resets (a : Ptr) (v : Byte) : (s.hostWrite a v).resets = s.resets := rfl

@[simp] theorem State.resetBlock_fb : s.resetBlock.fb = freshFramebuffer s.resets := rfl
@[simp] theorem State.resetBlock_curX : s.resetBlock.curX = 0 := rfl
@[simp] theorem State.resetBlock_curY : s.resetBlock.curY = 0 := rfl
@[simp] theorem State.resetBlock_winW : s.resetBlock.winW = State.reset.winW := rfl
@[simp] theorem State.resetBlock_winH : s.resetBlock.winH = State.reset.winH := rfl
@[simp] theorem State.resetBlock_tx : s.resetBlock.tx = [] := rfl
@[simp] theorem State.resetBlock_responses : s.resetBlock.responses = [] := rfl
@[simp] theorem State.resetBlock_hmem : s.resetBlock.hmem = s.hmem := by rw [State.resetBlock]
@[simp] theorem State.resetBlock_host : s.resetBlock.host = s.host := by rw [State.resetBlock]
@[simp] theorem State.resetBlock_resets : s.resetBlock.resets = s.resets + 1 := rfl

@[simp] theorem State.reset_winW : State.reset.winW = 84 := by simp [State.reset]
@[simp] theorem State.reset_winH : State.reset.winH = 48 := by simp [State.reset]

/-! What `streamWindow` and the optional homing of the cursor change. -/

@[simp] theorem streamWindow_eq (src : Source) :
    streamWindow src s = s.send (streamItems src s.winW.toNat s.winH.toNat) := rfl

theorem State.homeCursorIf_eq (b : Bool) :
    s.homeCursorIf b = { s with curX := if b then 0 else s.curX, curY := if b then 0 else s.curY } := by
  cases b <;> simp [State.homeCursorIf, State.setCursor]

@[simp] theorem answered_eq_raise (e : Status) : answered s e 0 = s.raise e := rfl

@[simp] theorem finish_ok (t : State) : finish s (.ok t) = .next (t.respond 0) := rfl

@[simp] theorem finish_error (e : Status) : finish s (.error e) = .next (s.raise e) := rfl

/-- Everything `finish` can do: one response, on the state the attempt left or on the state before it. -/
theorem finish_cases (r : Attempt) :
    (∃ t, r = .ok t ∧ finish s r = .next (t.respond 0)) ∨ (∃ e, r = .error e ∧ finish s r = .next (s.raise e)) := by
  cases r with
  | ok t => exact .inl ⟨t, rfl, rfl⟩
  | error e => exact .inr ⟨e, rfl, rfl⟩

end Sys2Proof.Machine
end

