-- ==== Sys2Proof/Laws/Framebuffer.lean ====
section
/-! SUPPORT. The framebuffer's bytes and bits: a read after a write, and the pixel map of R52 and R54. -/

namespace Sys2Proof.Machine

theorem fbIndex_lt {x y : Nat} (hx : x < 84) (hy : y < 48) : fbIndex x y < 504 := by unfold fbIndex; omega

theorem fbBit_lt (y : Nat) : fbBit y < 8 := Nat.mod_lt _ (by decide)

/-- R54: two pixels in range that share byte and bit are one pixel. -/
theorem pixel_eq_of_index_eq {x y x' y' : Nat} (hx : x < 84) (hx' : x' < 84) (hi : fbIndex x y = fbIndex x' y')
    (hb : fbBit y = fbBit y') : x = x' ∧ y = y' := by
  unfold fbIndex at hi; unfold fbBit at hb; omega

theorem fbReadByte_fbWriteByte (fb : Framebuffer) {k : Nat} (hk : k < 504) (v : Byte) (j : Nat) :
    fbReadByte (fbWriteByte fb k v) j = if j = k then v else fbReadByte fb j := by
  unfold fbReadByte fbWriteByte
  rw [Vector.getElem?_setIfInBounds]
  by_cases h : k = j
  · subst h; simp [hk]
  · simp [h, Ne.symm h]

theorem fbReadByte_toList (fb : Framebuffer) (k : Nat) : fb.toList.getD k 0 = fbReadByte fb k := by
  simp [fbReadByte, List.getD]

theorem fbReadByte_ext {fb fb' : Framebuffer} (h : ∀ k < 504, fbReadByte fb k = fbReadByte fb' k) : fb = fb' := by
  ext1 k hk
  simpa [fbReadByte, hk] using h k hk

/-- The new byte of FbWriteBit has exactly bit `b` at `v` (R53). -/
theorem getLsbD_maskByte (old : Byte) (v : Bool) {b : Nat} (hb : b < 8) (j : Nat) (hj : j < 8) :
    (if v then old ||| BitVec.ofNat 8 (2 ^ b) else old &&& (255 - BitVec.ofNat 8 (2 ^ b)) : Byte).getLsbD j
      = if j = b then v else old.getLsbD j := by
  have hbit : (BitVec.ofNat 8 (2 ^ b)).getLsbD j = decide (j = b) := by
    rw [BitVec.getLsbD_ofNat, Nat.testBit_two_pow]
    simp [hj, eq_comm]
  generalize BitVec.ofNat 8 (2 ^ b) = mask at hbit ⊢
  have hnot : (255 - mask : Byte) = ~~~ mask := BitVec.allOnes_sub_eq_not mask
  cases v
  · rw [if_neg (by decide), hnot, BitVec.getLsbD_and, BitVec.getLsbD_not, hbit]
    by_cases h : j = b <;> simp [h, hj, hb]
  · rw [if_pos rfl, BitVec.getLsbD_or, hbit]
    by_cases h : j = b <;> simp [h]

theorem fbReadByte_fbWriteBit (fb : Framebuffer) {x y : Nat} (hx : x < 84) (hy : y < 48) (v : Bool) (k : Nat)
    {j : Nat} (hj : j < 8) :
    (fbReadByte (fbWriteBit fb x y v) k).getLsbD j
      = if k = fbIndex x y ∧ j = fbBit y then v else (fbReadByte fb k).getLsbD j := by
  unfold fbWriteBit
  simp only []
  rw [fbReadByte_fbWriteByte _ (fbIndex_lt hx hy)]
  by_cases h : k = fbIndex x y
  · subst h
    rw [if_pos rfl, getLsbD_maskByte _ _ (fbBit_lt y) _ hj]
    simp
  · simp [h]

/-- FbReadBit after FbWriteBit (R53, R54). -/
theorem fbReadBit_fbWriteBit (fb : Framebuffer) {x y x' y' : Nat} (hx : x < 84) (hy : y < 48) (hx' : x' < 84)
    (v : Bool) :
    fbReadBit (fbWriteBit fb x y v) x' y' = if x' = x ∧ y' = y then v else fbReadBit fb x' y' := by
  unfold fbReadBit
  rw [fbReadByte_fbWriteBit fb hx hy v _ (fbBit_lt y')]
  by_cases h : x' = x ∧ y' = y
  · obtain ⟨rfl, rfl⟩ := h; simp
  · rw [if_neg h, if_neg]
    rintro ⟨hi, hb⟩
    exact h (pixel_eq_of_index_eq hx' hx hi hb)

/-- FB is determined by its pixels. -/
theorem framebuffer_ext {fb fb' : Framebuffer}
    (h : ∀ x < 84, ∀ y < 48, fbReadBit fb x y = fbReadBit fb' x y) : fb = fb' := by
  refine fbReadByte_ext fun k hk => BitVec.eq_of_getLsbD_eq fun j hj => ?_
  have := h (k % 84) (Nat.mod_lt _ (by decide)) (8 * (k / 84) + j) (by omega)
  unfold fbReadBit fbIndex fbBit at this
  rwa [show k % 84 + 84 * ((8 * (k / 84) + j) / 8) = k by omega, show (8 * (k / 84) + j) % 8 = j by omega] at this

theorem fbReadByte_freshFramebuffer (n k : Nat) (hk : k < 504) :
    fbReadByte (freshFramebuffer n) k = Config.fbAtReset n k := by
  simp [fbReadByte, freshFramebuffer, hk]

end Sys2Proof.Machine
end

