-- ==== Sys2Proof/Laws/Memory.lean ====
section
/-! SUPPORT. HMEM: a read after a write, and the canonical form that every write keeps. -/

namespace Sys2Proof.Machine

theorem Memory.wfFrom_mono {lo lo' : Nat} (h : lo' ≤ lo) : ∀ {m : Memory}, m.wfFrom lo = true → m.wfFrom lo' = true
  | [], _ => rfl
  | (_, _) :: _, hm => by
    simp only [Memory.wfFrom, Bool.and_eq_true, decide_eq_true_eq] at hm ⊢
    exact ⟨⟨⟨h.trans hm.1.1.1, hm.1.1.2⟩, hm.1.2⟩, hm.2⟩

/-- Below its first address a canonical memory lists nothing. -/
theorem Memory.read_below {lo a : Nat} (h : a < lo) : ∀ {m : Memory}, m.wfFrom lo = true → m.read a = Memory.unlisted
  | [], _ => rfl
  | (k, b) :: m, hm => by
    simp only [Memory.wfFrom, Bool.and_eq_true, decide_eq_true_eq] at hm
    have hk : k ≠ a := by omega
    rw [Memory.read, if_neg hk]
    exact Memory.read_below (by omega) hm.2

theorem Memory.read_cell_append (a : Nat) (v : Byte) (m : Memory) (x : Nat) (hm : m.read a = Memory.unlisted) :
    Memory.read (Memory.cell a v ++ m) x = if x = a then v else m.read x := by
  unfold Memory.cell
  by_cases hv : v = Memory.unlisted
  · by_cases hx : x = a <;> simp [hv, hx, hm]
  · by_cases hx : x = a
    · simp [hv, hx, Memory.read]
    · simp [hv, hx, Memory.read, Ne.symm hx]

/-- A read after a write: the value written at its address, every other byte as before. -/
theorem Memory.read_write {lo : Nat} (a : Nat) (v : Byte) (x : Nat) :
    ∀ {m : Memory}, m.wfFrom lo = true → (m.write a v).read x = if x = a then v else m.read x
  | [], _ => by
    have := Memory.read_cell_append a v [] x rfl
    simpa [Memory.write] using this
  | (k, b) :: m, hm => by
    have hw := hm
    simp only [Memory.wfFrom, Bool.and_eq_true, decide_eq_true_eq] at hw
    rw [Memory.write]
    split
    · refine Memory.read_cell_append a v _ x ?_
      have : k ≠ a := by omega
      rw [Memory.read, if_neg this]
      exact Memory.read_below (by omega) hw.2
    · split
      · rename_i hk
        subst hk
        rw [Memory.read_cell_append k v m x (Memory.read_below (by omega) hw.2), Memory.read]
        by_cases hx : x = k
        · simp [hx]
        · simp [hx, Ne.symm hx]
      · rename_i hk
        rw [Memory.read, Memory.read_write a v x hw.2, Memory.read]
        by_cases hkx : k = x
        · subst hkx
          simp [hk]
        · simp [hkx]

theorem Memory.wfFrom_cell_append {lo a : Nat} (v : Byte) {m : Memory} (hlo : lo ≤ a) (ha : a < 65536)
    (hm : m.wfFrom (a + 1) = true) : Memory.wfFrom lo (Memory.cell a v ++ m) = true := by
  unfold Memory.cell
  split
  · exact Memory.wfFrom_mono (by omega) hm
  · rename_i hv
    simp [Memory.wfFrom, hlo, ha, hv, hm]

theorem Memory.wfFrom_write {a : Nat} (ha : a < 65536) (v : Byte) :
    ∀ {m : Memory} {lo : Nat}, lo ≤ a → m.wfFrom lo = true → (m.write a v).wfFrom lo = true
  | [], lo, hlo, _ => by simpa [Memory.write] using Memory.wfFrom_cell_append (m := []) v hlo ha rfl
  | (k, b) :: m, lo, hlo, hm => by
    have hw := hm
    simp only [Memory.wfFrom, Bool.and_eq_true, decide_eq_true_eq] at hw
    rw [Memory.write]
    split
    · refine Memory.wfFrom_cell_append v hlo ha ?_
      simp only [Memory.wfFrom, Bool.and_eq_true, decide_eq_true_eq]
      exact ⟨⟨⟨by omega, hw.1.1.2⟩, hw.1.2⟩, hw.2⟩
    · split
      · rename_i hk
        subst hk
        exact Memory.wfFrom_cell_append v hlo ha hw.2
      · simp only [Memory.wfFrom, Bool.and_eq_true, decide_eq_true_eq]
        exact ⟨hw.1, Memory.wfFrom_write ha v (by omega) hw.2⟩

/-- Every write keeps the canonical form. -/
theorem Memory.wf_write {m : Memory} (hm : m.wf = true) (a : Ptr) (v : Byte) : (m.write a.toNat v).wf = true :=
  Memory.wfFrom_write a.isLt v (Nat.zero_le _) hm

/-- Reset memory is in the canonical form. -/
theorem reset_hmem_wf : State.reset.hmem.wf = true := rfl

@[simp] theorem hmemBytes_length (s : State) (addr n : Nat) : (hmemBytes s addr n).length = n := by simp [hmemBytes]

theorem hmemBytes_getD (s : State) (addr n k : Nat) (h : k < n) (d : Byte) :
    (hmemBytes s addr n).getD k d = s.hmem.read (addr + k) := by
  simp [hmemBytes, List.getD, h]

end Sys2Proof.Machine
end

