-- ==== Sys2Proof/Laws/Bitmap.lean ====
section
/-! SUPPORT. What an import writes: byte, row, image (R92 to R94). -/

namespace Sys2Proof.Machine

/-- The sample of image column `cx` in its data byte: the high nibble for an even column (R94). -/
def sampleOf (byte : Byte) (cx : Nat) : Nat := if cx % 2 = 0 then highNibble byte else lowNibble byte

theorem fbReadBit_importByte (byte : Byte) (t : Nat) {px py x y : Nat} (fb : Framebuffer) (hpx : px + 2 ≤ 84)
    (hpy : py < 48) (hx : x < 84) :
    fbReadBit (importByte byte t px py fb) x y =
      if y = py ∧ px ≤ x ∧ x < px + 2 then quantize (sampleOf byte (x - px)) t else fbReadBit fb x y := by
  unfold importByte
  rw [fbReadBit_fbWriteBit _ (by omega) hpy hx, fbReadBit_fbWriteBit _ (by omega) hpy hx]
  by_cases hy : y = py
  · by_cases h1 : x = px + 1
    · subst h1; simp [hy, sampleOf]
    · by_cases h0 : x = px
      · subst h0; simp [hy, sampleOf]
      · rw [if_neg (by omega), if_neg (by omega), if_neg (by omega)]
  · rw [if_neg (by omega), if_neg (by omega), if_neg (by omega)]

theorem fbReadBit_importRow (m : Memory) (j t : Nat) {pairs xpos py x y : Nat} (fb : Framebuffer)
    (hp : xpos + 2 * pairs ≤ 84) (hpy : py < 48) (hx : x < 84) :
    fbReadBit (importRow m j pairs t xpos py fb) x y =
      if y = py ∧ xpos ≤ x ∧ x < xpos + 2 * pairs then
        quantize (sampleOf (m.read (j + (x - xpos) / 2)) (x - xpos)) t
      else fbReadBit fb x y := by
  unfold importRow
  induction pairs with
  | zero => rw [if_neg (by omega)]; rfl
  | succ n ih =>
    rw [List.range_succ, List.foldl_append, List.foldl_cons, List.foldl_nil,
      fbReadBit_importByte _ _ _ (by omega) hpy hx, ih (by omega)]
    by_cases h : y = py ∧ xpos + 2 * n ≤ x ∧ x < xpos + 2 * n + 2
    · rw [if_pos h, if_pos (by omega), show (x - xpos) / 2 = n by omega]
      congr 1
      unfold sampleOf
      rw [show (x - xpos) % 2 = (x - (xpos + 2 * n)) % 2 by omega]
    · rw [if_neg h]
      by_cases h' : y = py ∧ xpos ≤ x ∧ x < xpos + 2 * n
      · rw [if_pos h', if_pos (by omega)]
      · rw [if_neg h', if_neg (by omega)]

theorem fbReadBit_importRows (m : Memory) (addr t : Nat) {xpos ypos x y : Nat} (b : BitmapHeader) (fb : Framebuffer)
    (hb : importGeometryOk xpos ypos b = true) (hx : x < 84) :
    fbReadBit (importRows m addr xpos ypos t b fb) x y =
      if (xpos ≤ x ∧ x < xpos + b.width) ∧ ypos < y + b.height ∧ y ≤ ypos then
        quantize (sampleOf
          (m.read (addr + b.doff + (ypos - y) * rowStride b.width + (x - xpos) / 2)) (x - xpos)) t
      else fbReadBit fb x y := by
  simp only [importGeometryOk, Bool.and_eq_true, decide_eq_true_eq] at hb
  obtain ⟨⟨⟨⟨-, hw⟩, hxp⟩, hyp⟩, hy47⟩ := hb
  unfold importRows
  generalize b.height = n at hyp
  induction n with
  | zero => rw [if_neg (by omega)]; rfl
  | succ n ih =>
    rw [List.range_succ, List.foldl_append, List.foldl_cons, List.foldl_nil,
      fbReadBit_importRow _ _ _ _ (by omega) (by omega) hx, ih (by omega)]
    by_cases h : y = ypos - n ∧ xpos ≤ x ∧ x < xpos + 2 * (b.width / 2)
    · rw [if_pos h, if_pos (by omega), show ypos - y = n by omega]
    · rw [if_neg h]
      by_cases h' : (xpos ≤ x ∧ x < xpos + b.width) ∧ ypos < y + n ∧ y ≤ ypos
      · rw [if_pos h', if_pos (by omega)]
      · rw [if_neg h', if_neg (by omega)]

end Sys2Proof.Machine
end

