-- ==== Sys2Proof/Laws/Window.lean ====
section
/-! SUPPORT. SetWindow: when it succeeds, what it sends, and everything it can do. -/

namespace Sys2Proof.Machine

/-- A bound below 65536 is sent as its two bytes, the high one first (R32). -/
theorem boundItems_eq (v : Nat) (hv : v < 65536) : boundItems v = bound v := by
  have h1 : hi8 (BitVec.ofNat 16 v) = BitVec.ofNat 8 (v / 256) := by
    apply BitVec.eq_of_toNat_eq
    simp only [hi8, BitVec.extractLsb'_toNat, BitVec.toNat_ofNat, Nat.shiftRight_eq_div_pow]
    omega
  have h2 : lo8 (BitVec.ofNat 16 v) = BitVec.ofNat 8 (v % 256) := by
    apply BitVec.eq_of_toNat_eq
    simp only [lo8, BitVec.extractLsb'_toNat, BitVec.toNat_ofNat, Nat.shiftRight_eq_div_pow]
    omega
  simp [boundItems, bound, dataItems, txD, h1, h2]

/-- The packet of a rectangle inside 84 by 48 is the one of R61. -/
theorem windowPacket_eq (c : Config) {x y w h : Nat} (hw : 0 < w) (hh : 0 < h) (hx : x + w ≤ 84) (hy : y + h ≤ 48) :
    windowPacket c x y w h = packet c x y w h := by
  have := c.xOfs.isLt
  have := c.yOfs.isLt
  unfold windowPacket packet
  rw [boundItems_eq _ (by omega), boundItems_eq _ (by omega), boundItems_eq _ (by omega), boundItems_eq _ (by omega)]
  simp [txC]

@[simp] theorem windowPacket_length (c : Config) (x y w h : Nat) : (windowPacket c x y w h).length = 11 := by
  simp [windowPacket, boundItems]

/-- The four checks of R62, together. -/
abbrev WindowAccepted (x y w h : Nat) : Prop := w % 2 = 0 ∧ 0 < w ∧ 0 < h ∧ x + w ≤ 84 ∧ y + h ≤ 48

theorem setWindow_accepted (c : Config) {x y w h : Nat} (hok : WindowAccepted x y w h) (s : State) :
    setWindow c x y w h s = .ok ((s.send (packet c x y w h)).setWindowSize w h) := by
  obtain ⟨h1, h2, h3, h4, h5⟩ := hok
  unfold setWindow
  rw [if_neg (by omega), if_neg (by omega), if_neg (by omega), if_neg (by omega), windowPacket_eq c h2 h3 h4 h5]

theorem setWindow_refused (c : Config) {x y w h : Nat} (hno : ¬ WindowAccepted x y w h) (s : State) :
    setWindow c x y w h s = .error .geometryError := by
  unfold setWindow
  repeat' split
  all_goals first | rfl | (exfalso; apply hno; refine ⟨?_, ?_, ?_, ?_, ?_⟩ <;> omega)

/-- The default rectangle is always accepted (R64). -/
theorem setWindow_default (c : Config) (s : State) :
    setWindow c 0 0 84 48 s = .ok ((s.send (packet c 0 0 84 48)).setWindowSize 84 48) :=
  setWindow_accepted c (by decide) s

theorem resetWindow_eq (c : Config) (s : State) :
    resetWindow c s = .ok (((s.send (packet c 0 0 84 48)).setWindowSize 84 48).setCursor 0 0) := by
  simp [resetWindow, setWindow_default, Except.map]

@[simp] theorem packet_length (c : Config) (x y w h : Nat) : (packet c x y w h).length = 11 := by
  simp [packet, bound, dataItems]

end Sys2Proof.Machine
end

