-- ==== Sys2Proof/Laws/Codec.lean ====
section
/-! SUPPORT. The codec: what a stream sends, in the order of R68. -/

namespace Sys2Proof.Machine

/-- Blocks of three laid end to end: their number, and each of them. -/
theorem flatMap_blocks {α : Type} (f : Nat → List α) (hf : ∀ k, (f k).length = 3) (n : Nat) :
    ((List.range n).flatMap f).length = 3 * n ∧
    ∀ k < n, (((List.range n).flatMap f).drop (3 * k)).take 3 = f k := by
  induction n with
  | zero => simp
  | succ n ih =>
    obtain ⟨hlen, hget⟩ := ih
    rw [List.range_succ, List.flatMap_append]
    refine ⟨by simp [hlen, hf]; omega, fun k hk => ?_⟩
    rw [List.drop_append_of_le_length (by omega)]
    by_cases hkn : k = n
    · subst hkn
      rw [List.drop_of_length_le (by omega)]
      simp [List.take_of_length_le, hf]
    · rw [List.take_append_of_le_length (by simp [hlen]; omega)]
      exact hget k (by omega)

theorem packPair_colour (a b : Bool) : packPair (colour a) (colour b) = triple a b := by
  cases a <;> cases b <;> decide

theorem pairItems_eq (src : Source) (winW i : Nat) :
    pairItems src winW i = dataItems (triple (sampleAt src winW i) (sampleAt src winW (i + 1))) := by
  unfold pairItems
  rw [packPair_colour]
  rfl

@[simp] theorem triple_length (a b : Bool) : (triple a b).length = 3 := by cases a <;> cases b <;> rfl

@[simp] theorem pairItems_length (src : Source) (winW i : Nat) : (pairItems src winW i).length = 3 := by
  simp [pairItems_eq, dataItems]

@[simp] theorem streamItems_length (src : Source) (winW winH : Nat) :
    (streamItems src winW winH).length = 3 * (winW * winH / 2) :=
  (flatMap_blocks _ (fun _ => pairItems_length _ _ _) _).1

/-- The sample of a window pixel: background without a source (R66, R69). -/
def samplePixel (src : Source) (winW px py : Nat) : Bool :=
  match src with
  | none => false
  | some bytes => sample bytes winW px py

/-- A stream through a window of even width is that window, row by row, in pairs (R67, R68, R70). -/
theorem streamItems_isStream (src : Source) {winW : Nat} (hw : winW % 2 = 0) (winH : Nat) :
    IsStream (streamItems src winW winH) winW winH (samplePixel src winW) := by
  have hn : winW * winH / 2 = winW / 2 * winH := by
    conv_lhs => rw [show winW = 2 * (winW / 2) by omega, Nat.mul_assoc, Nat.mul_div_cancel_left _ (by decide)]
  obtain ⟨hlen, hget⟩ :=
    flatMap_blocks (fun k => pairItems src winW (2 * k)) (fun _ => pairItems_length _ _ _) (winW * winH / 2)
  refine ⟨by rw [streamItems, hlen, hn, Nat.mul_assoc], fun py hpy j hj => ?_⟩
  have hk : py * (winW / 2) + j < winW * winH / 2 := by
    rw [hn]
    calc py * (winW / 2) + j < py * (winW / 2) + winW / 2 := by omega
      _ = (py + 1) * (winW / 2) := by ring
      _ ≤ winH * (winW / 2) := Nat.mul_le_mul_right _ hpy
      _ = winW / 2 * winH := by ring
  rw [streamItems, hget _ hk, pairItems_eq]
  have hi : 2 * (py * (winW / 2) + j) = 2 * j + winW * py := by
    conv_rhs => rw [show winW = 2 * (winW / 2) by omega]
    ring
  have hmod : ∀ q, q < winW → sampleAt src winW (q + winW * py) = samplePixel src winW q py := by
    intro q hq
    unfold sampleAt samplePixel
    cases src with
    | none => rfl
    | some bytes =>
      rw [Nat.add_mul_mod_self_left, Nat.mod_eq_of_lt hq, Nat.add_mul_div_left _ _ (by omega), Nat.div_eq_of_lt hq,
        Nat.zero_add]
  rw [hi, show 2 * j + winW * py + 1 = (2 * j + 1) + winW * py by omega, hmod _ (by omega), hmod _ (by omega)]

/-- Without a source every byte sent is 0xFF (R66). -/
theorem streamItems_none (winW winH : Nat) :
    streamItems none winW winH = dataItems (List.replicate (3 * (winW * winH / 2)) 0xFF) := by
  unfold streamItems
  generalize winW * winH / 2 = n
  induction n with
  | zero => rfl
  | succ n ih =>
    rw [List.range_succ, List.flatMap_append, ih, show 3 * (n + 1) = 3 * n + 3 by ring, List.replicate_add]
    simp [pairItems_eq, sampleAt, triple, dataItems, List.replicate]

/-- `IsStream` speaks of the pixels inside the window only. -/
theorem isStream_congr {items : List TxItem} {w h : Nat} {pix pix' : Nat → Nat → Bool}
    (hs : IsStream items w h pix) (he : ∀ px < w, ∀ py < h, pix px py = pix' px py) : IsStream items w h pix' := by
  refine ⟨hs.1, fun py hpy j hj => ?_⟩
  rw [hs.2 py hpy j hj, he _ (by omega) _ hpy, he _ (by omega) _ hpy]

end Sys2Proof.Machine
end

