-- ==== Sys2Proof/Laws/Decode.lean ====
section
/-! SUPPORT. The fields of a word put together from its fields, and a word put together from its own fields (R41), by the
numbers they stand for. -/

namespace Sys2Proof

theorem toNat_append_eq {n m : Nat} (x : BitVec n) (y : BitVec m) : (x ++ y).toNat = x.toNat * 2 ^ m + y.toNat := by
  rw [BitVec.toNat_append, ← Nat.shiftLeft_add_eq_or_of_lt y.isLt, Nat.shiftLeft_eq]

section Fields

variable (op a b c d e : Byte) (p : Ptr) (w : Request)

theorem Request.toNat_ofBytes : (Request.ofBytes op a b c d e).toNat =
    ((((op.toNat * 256 + a.toNat) * 256 + b.toNat) * 256 + c.toNat) * 256 + d.toNat) * 256 + e.toNat := by
  unfold Request.ofBytes
  rw [toNat_append_eq, toNat_append_eq, toNat_append_eq, toNat_append_eq, toNat_append_eq]
  norm_num

theorem Request.toNat_ofPtr : (Request.ofPtr op a b c p).toNat =
    (((op.toNat * 256 + a.toNat) * 256 + b.toNat) * 256 + c.toNat) * 65536 + p.toNat := by
  unfold Request.ofPtr
  rw [toNat_append_eq, toNat_append_eq, toNat_append_eq, toNat_append_eq]
  norm_num

theorem Request.toNat_op : w.op.toNat = w.toNat / 2 ^ 40 % 256 := by
  simp [Request.op, BitVec.extractLsb'_toNat, Nat.shiftRight_eq_div_pow]
theorem Request.toNat_a : w.a.toNat = w.toNat / 2 ^ 32 % 256 := by
  simp [Request.a, BitVec.extractLsb'_toNat, Nat.shiftRight_eq_div_pow]
theorem Request.toNat_b : w.b.toNat = w.toNat / 2 ^ 24 % 256 := by
  simp [Request.b, BitVec.extractLsb'_toNat, Nat.shiftRight_eq_div_pow]
theorem Request.toNat_c : w.c.toNat = w.toNat / 2 ^ 16 % 256 := by
  simp [Request.c, BitVec.extractLsb'_toNat, Nat.shiftRight_eq_div_pow]
theorem Request.toNat_d : w.d.toNat = w.toNat / 2 ^ 8 % 256 := by
  simp [Request.d, BitVec.extractLsb'_toNat, Nat.shiftRight_eq_div_pow]
theorem Request.toNat_e : w.e.toNat = w.toNat % 256 := by
  simp [Request.e, BitVec.extractLsb'_toNat]
theorem Request.toNat_p : w.p.toNat = w.toNat % 65536 := by
  simp [Request.p, BitVec.extractLsb'_toNat]

/-- `p = d:e` (R41). -/
theorem Request.p_eq_zero_iff : w.p = 0 ↔ w.d = 0 ∧ w.e = 0 := by
  have h8 : (0 : Byte).toNat = 0 := rfl
  have h16 : (0 : Ptr).toNat = 0 := rfl
  rw [← BitVec.toNat_inj, ← BitVec.toNat_inj, ← BitVec.toNat_inj, toNat_p, toNat_d, toNat_e, h8, h16]
  omega

@[simp] theorem Request.op_ofBytes : (Request.ofBytes op a b c d e).op = op := by
  apply BitVec.eq_of_toNat_eq; rw [toNat_op, toNat_ofBytes]; omega
@[simp] theorem Request.a_ofBytes : (Request.ofBytes op a b c d e).a = a := by
  apply BitVec.eq_of_toNat_eq; rw [toNat_a, toNat_ofBytes]; omega
@[simp] theorem Request.b_ofBytes : (Request.ofBytes op a b c d e).b = b := by
  apply BitVec.eq_of_toNat_eq; rw [toNat_b, toNat_ofBytes]; omega
@[simp] theorem Request.c_ofBytes : (Request.ofBytes op a b c d e).c = c := by
  apply BitVec.eq_of_toNat_eq; rw [toNat_c, toNat_ofBytes]; omega
@[simp] theorem Request.d_ofBytes : (Request.ofBytes op a b c d e).d = d := by
  apply BitVec.eq_of_toNat_eq; rw [toNat_d, toNat_ofBytes]; omega
@[simp] theorem Request.e_ofBytes : (Request.ofBytes op a b c d e).e = e := by
  apply BitVec.eq_of_toNat_eq; rw [toNat_e, toNat_ofBytes]; omega

@[simp] theorem Request.op_ofPtr : (Request.ofPtr op a b c p).op = op := by
  apply BitVec.eq_of_toNat_eq; rw [toNat_op, toNat_ofPtr]; omega
@[simp] theorem Request.a_ofPtr : (Request.ofPtr op a b c p).a = a := by
  apply BitVec.eq_of_toNat_eq; rw [toNat_a, toNat_ofPtr]; omega
@[simp] theorem Request.b_ofPtr : (Request.ofPtr op a b c p).b = b := by
  apply BitVec.eq_of_toNat_eq; rw [toNat_b, toNat_ofPtr]; omega
@[simp] theorem Request.c_ofPtr : (Request.ofPtr op a b c p).c = c := by
  apply BitVec.eq_of_toNat_eq; rw [toNat_c, toNat_ofPtr]; omega
@[simp] theorem Request.p_ofPtr : (Request.ofPtr op a b c p).p = p := by
  apply BitVec.eq_of_toNat_eq; rw [toNat_p, toNat_ofPtr]; omega

/-- A word is made of its six bytes (R41). -/
theorem Request.ofBytes_fields : Request.ofBytes w.op w.a w.b w.c w.d w.e = w := by
  apply BitVec.eq_of_toNat_eq
  rw [toNat_ofBytes, toNat_op, toNat_a, toNat_b, toNat_c, toNat_d, toNat_e]
  have := w.isLt
  omega

/-- A word is made of its first four bytes and its pointer (R41). -/
theorem Request.ofPtr_fields : Request.ofPtr w.op w.a w.b w.c w.p = w := by
  apply BitVec.eq_of_toNat_eq
  rw [toNat_ofPtr, toNat_op, toNat_a, toNat_b, toNat_c, toNat_p]
  have := w.isLt
  omega

/-- A word that some row's bytes make under a mask made the same way, byte by byte. -/
theorem Request.ofBytes_and (op' a' b' c' d' e' : Byte) :
    Request.ofBytes op a b c d e &&& Request.ofBytes op' a' b' c' d' e' =
      Request.ofBytes (op &&& op') (a &&& a') (b &&& b') (c &&& c') (d &&& d') (e &&& e') := by
  unfold Request.ofBytes
  rw [BitVec.and_append, BitVec.and_append, BitVec.and_append, BitVec.and_append, BitVec.and_append]

end Fields

end Sys2Proof
end

