-- ==== Sys2Proof/Laws/PerInstr.lean ====
section
/-! SUPPORT. Statements about every instruction as syntax, one lemma per constructor. The family TableRow: the word that
encodes a well-formed instruction is one of that instruction's row of spec/opcode_table.json. -/

namespace Sys2Proof.Laws.TableRow

/-- The encoding of a well-formed `i` lies in the row of `i`. -/
def Statement (i : Instr) : Prop := i.wellFormed = true → i.row.covers (encode i) = true

/-- A word of bytes lies in a row given by the bytes of its mask and pattern, checked byte by byte. -/
theorem covers_ofBytes (r : OpcodeRow) (op a b c d e op' a' b' c' d' e' : Byte)
    (hm : r.mask = .ofBytes op' a' b' c' d' e')
    (hp : r.pattern = .ofBytes (op &&& op') (a &&& a') (b &&& b') (c &&& c') (d &&& d') (e &&& e')) :
    r.covers (.ofBytes op a b c d e) = true := by
  unfold OpcodeRow.covers
  rw [hm, hp, Request.ofBytes_and]
  exact beq_self_eq_true _

/-- The same for a word with a pointer that the row leaves free. -/
theorem covers_ofPtr (r : OpcodeRow) (op a b c op' a' b' c' : Byte) (p : Ptr)
    (hm : r.mask = .ofPtr op' a' b' c' 0)
    (hp : r.pattern = .ofPtr (op &&& op') (a &&& a') (b &&& b') (c &&& c') 0) :
    r.covers (.ofPtr op a b c p) = true := by
  unfold OpcodeRow.covers Request.ofPtr
  rw [hm, hp]
  unfold Request.ofPtr
  rw [BitVec.and_append, BitVec.and_append, BitVec.and_append, BitVec.and_append]
  simp

/-- A byte the mask leaves free. -/
theorem and_none (b : Byte) : b &&& 0 = 0 := BitVec.and_zero

theorem pxset (x y v : Byte) : Statement (.pxset x y v) := fun h => by
  have hv : v &&& 0xFE = 0 := by
    have : v = 0 ∨ v = 1 := by
      simp only [Instr.wellFormed, decide_eq_true_eq] at h
      rcases Nat.le_one_iff_eq_zero_or_eq_one.mp h with h | h
      · exact .inl (BitVec.eq_of_toNat_eq h)
      · exact .inr (BitVec.eq_of_toNat_eq h)
    rcases this with rfl | rfl <;> decide
  refine covers_ofBytes _ _ _ _ _ _ _ 0xFF 0 0 0xFE 0xFF 0xFF rfl ?_
  rw [hv, and_none, and_none]; rfl

theorem pxclr (x y : Byte) : Statement (.pxclr x y) := fun _ => by
  refine covers_ofBytes _ _ _ _ _ _ _ 0xFF 0 0 0xFF 0xFF 0xFF rfl ?_
  rw [and_none, and_none]; rfl

theorem pxget (x y : Byte) : Statement (.pxget x y) := fun _ => by
  refine covers_ofBytes _ _ _ _ _ _ _ 0xFF 0 0 0xFF 0xFF 0xFF rfl ?_
  rw [and_none, and_none]; rfl

theorem fbwr (val : Byte) (idx : Ptr) : Statement (.fbwr val idx) := fun _ => by
  refine covers_ofPtr _ _ _ _ _ 0xFF 0 0xFF 0xFF _ rfl ?_
  rw [and_none]; rfl

theorem fbrd (idx : Ptr) : Statement (.fbrd idx) := fun _ =>
  covers_ofPtr _ _ _ _ _ 0xFF 0xFF 0xFF 0xFF _ rfl rfl

theorem setwin (x y w h : Byte) : Statement (.setwin x y w h) := fun _ => by
  refine covers_ofBytes _ _ _ _ _ _ _ 0xFF 0 0 0 0 0xFF rfl ?_
  rw [and_none, and_none, and_none, and_none]; rfl

theorem rstwin : Statement .rstwin := fun _ => by decide

theorem streamNone : Statement .streamNone := fun _ => by decide

theorem streamFb : Statement .streamFb := fun _ => by decide

theorem streamHmem (addr : Ptr) : Statement (.streamHmem addr) := fun _ =>
  covers_ofPtr _ _ _ _ _ 0xFF 0xFF 0xFF 0xFF _ rfl rfl

theorem putchar (code : Byte) : Statement (.putchar code) := fun _ => by
  refine covers_ofBytes _ _ _ _ _ _ _ 0xFF 0 0xFF 0xFF 0xFF 0xFF rfl ?_
  rw [and_none]; rfl

theorem putstr (addr : Ptr) : Statement (.putstr addr) := fun _ =>
  covers_ofPtr _ _ _ _ _ 0xFF 0xFF 0xFF 0xFF _ rfl rfl

theorem setcur (cx cy : Byte) : Statement (.setcur cx cy) := fun _ => by
  refine covers_ofBytes _ _ _ _ _ _ _ 0xFF 0 0 0xFF 0xFF 0xFF rfl ?_
  rw [and_none, and_none]; rfl

theorem clear : Statement .clear := fun _ => by decide

theorem impbmp (xpos ypos thr : Byte) (addr : Ptr) : Statement (.impbmp xpos ypos thr addr) := fun _ => by
  refine covers_ofPtr _ _ _ _ _ 0xFF 0 0 0 _ rfl ?_
  rw [and_none, and_none, and_none]; rfl

theorem init : Statement .init := fun _ => by decide

theorem drawfull (addr : Ptr) : Statement (.drawfull addr) := fun _ =>
  covers_ofPtr _ _ _ _ _ 0xFF 0xFF 0xFF 0xFF _ rfl rfl

theorem dispbuf : Statement .dispbuf := fun _ => by decide

end Sys2Proof.Laws.TableRow
end

