-- ==== Sys2Proof/Laws/Text.lean ====
section
/-! SUPPORT. PutChar and the loop of PUTSTR. -/

namespace Sys2Proof.Machine

theorem glyphIndex_renderable {code : Byte} (h : Renderable code) :
    glyphIndex code = some (Fin.ofNat 96 (code.toNat - 0x20)) := by
  unfold glyphIndex
  rw [dif_pos h]
  congr 1
  apply Fin.ext
  simp only [Fin.val_ofNat]
  exact (Nat.mod_eq_of_lt (by have := h.1; have := h.2; omega)).symm

theorem glyphIndex_not_renderable {code : Byte} (h : ¬ Renderable code) : glyphIndex code = none := by
  unfold glyphIndex; rw [dif_neg h]

/-- The cell as a stream source shows the pixels of R74. -/
theorem samplePixel_glyphCell (c : Config) (code : Byte) {px py : Nat} (hpx : px < 6) (hpy : py < 8) :
    samplePixel (some (glyphCell c (Fin.ofNat 96 (code.toNat - 0x20)))) 6 px py = cellPixel c code px py := by
  have h0 : px + 6 * (py / 8) = px := by omega
  have h1 : py % 8 = py := by omega
  simp only [samplePixel, sample, h0, h1, cellPixel]
  have : px = 0 ∨ px = 1 ∨ px = 2 ∨ px = 3 ∨ px = 4 ∨ px = 5 := by omega
  rcases this with rfl | rfl | rfl | rfl | rfl | rfl <;> simp [glyphCell]

/-- The cell window at the cursor is always accepted (the consequence of R18). -/
theorem cell_accepted {s : State} (hx : CursorColumnOk s) (hy : CursorRowOk s) :
    WindowAccepted s.curX.toNat s.curY.toNat 6 8 :=
  ⟨rfl, by decide, by decide, hx.2, hy.2⟩

/-- The position after advance_and_wrap stays on the grid (R18, R78). -/
theorem advance_ok {x y w h : Nat} (hx : x % 6 = 0 ∧ x + 6 ≤ 84) (hy : y % 8 = 0 ∧ y + 8 ≤ 48) (hw : w ≤ 84)
    (hh : h ≤ 48) :
    ((advance x y w h).1 % 6 = 0 ∧ (advance x y w h).1 + 6 ≤ 84) ∧
    ((advance x y w h).2 % 8 = 0 ∧ (advance x y w h).2 + 8 ≤ 48) := by
  unfold advance
  by_cases h1 : w < x + 6 + 6 <;> by_cases h2 : h < y + 8 + 8 <;> by_cases h3 : h < y + 8 <;>
    simp [h1, h2, h3] <;> omega

/-- What PutChar leaves for a renderable character whose cell fits (R77): the packet and the cell sent, the cursor
advanced, everything else as it was. -/
def drawn (c : Config) (code : Byte) (s : State) : State :=
  let p := advance s.curX.toNat s.curY.toNat s.winW.toNat s.winH.toNat
  { s with
    curX := BitVec.ofNat 8 p.1
    curY := BitVec.ofNat 8 p.2
    tx := s.tx ++ (packet c s.curX.toNat s.curY.toNat 6 8
      ++ streamItems (some (glyphCell c (Fin.ofNat 96 (code.toNat - 0x20)))) 6 8) }

theorem putChar_drawn (c : Config) {code : Byte} {s : State} (h : Renderable code)
    (hw : WindowAccepted s.curX.toNat s.curY.toNat 6 8) : putChar c code s = .ok (drawn c code s) := by
  unfold putChar
  rw [glyphIndex_renderable h]
  simp only [setWindow_accepted c hw, Except.map, streamWindow]
  simp [drawn, State.send, State.setWindowSize, State.setCursor]

theorem putChar_refused (c : Config) {code : Byte} (s : State) (h : ¬ Renderable code) :
    putChar c code s = .error .glyphRangeError := by
  unfold putChar; rw [glyphIndex_not_renderable h]

/-- Everything PutChar can do, in any state. -/
theorem putChar_cases (c : Config) (code : Byte) (s : State) :
    putChar c code s = .error .glyphRangeError ∨ putChar c code s = .error .geometryError ∨
    (Renderable code ∧ putChar c code s = .ok (drawn c code s)) := by
  by_cases h : Renderable code
  · by_cases hw : WindowAccepted s.curX.toNat s.curY.toNat 6 8
    · exact .inr (.inr ⟨h, putChar_drawn c h hw⟩)
    · refine .inr (.inl ?_)
      unfold putChar
      rw [glyphIndex_renderable h]
      simp only [setWindow_refused c hw, Except.map]
  · exact .inl (putChar_refused c s h)

@[simp] theorem drawn_fb (c : Config) (code : Byte) (s : State) : (drawn c code s).fb = s.fb := rfl
@[simp] theorem drawn_winW (c : Config) (code : Byte) (s : State) : (drawn c code s).winW = s.winW := rfl
@[simp] theorem drawn_winH (c : Config) (code : Byte) (s : State) : (drawn c code s).winH = s.winH := rfl
@[simp] theorem drawn_responses (c : Config) (code : Byte) (s : State) :
    (drawn c code s).responses = s.responses := rfl
@[simp] theorem drawn_hmem (c : Config) (code : Byte) (s : State) : (drawn c code s).hmem = s.hmem := rfl
@[simp] theorem drawn_host (c : Config) (code : Byte) (s : State) : (drawn c code s).host = s.host := rfl
@[simp] theorem drawn_resets (c : Config) (code : Byte) (s : State) : (drawn c code s).resets = s.resets := rfl

theorem drawn_tx_length (c : Config) (code : Byte) (s : State) :
    (drawn c code s).tx.length = s.tx.length + 83 := by
  simp [drawn]

theorem drawn_cursor (c : Config) (code : Byte) {s : State} (h : Inv s) :
    (drawn c code s).curX.toNat = (advance s.curX.toNat s.curY.toNat s.winW.toNat s.winH.toNat).1 ∧
    (drawn c code s).curY.toNat = (advance s.curX.toNat s.curY.toNat s.winW.toNat s.winH.toNat).2 := by
  obtain ⟨hx, hy, hw, hh, -⟩ := h
  have := advance_ok hx hy hw.2.2 hh.2
  refine ⟨?_, ?_⟩ <;> simp only [drawn, BitVec.toNat_ofNat] <;> omega

theorem drawn_inv (c : Config) (code : Byte) {s : State} (h : Inv s) : Inv (drawn c code s) := by
  obtain ⟨h1, h2⟩ := drawn_cursor c code h
  obtain ⟨hx, hy, hw, hh, hm⟩ := h
  have ha := advance_ok hx hy hw.2.2 hh.2
  exact ⟨by rw [CursorColumnOk, h1]; exact ha.1, by rw [CursorRowOk, h2]; exact ha.2, hw, hh, hm⟩

/-- One turn of PUTSTR's loop (R79). -/
theorem putStrLoop_succ (c : Config) (n q : Nat) (s : State) :
    putStrLoop c (n + 1) q s =
      if s.hmem.read q = 0 then s.respond 0
      else match putChar c (s.hmem.read q) s with
        | .error e => s.raise e
        | .ok s1 => putStrLoop c n (q + 1) s1 := rfl

theorem putStrLoop_drawn (c : Config) (n q : Nat) {s : State} (h : Renderable (s.hmem.read q))
    (hw : WindowAccepted s.curX.toNat s.curY.toNat 6 8) :
    putStrLoop c (n + 1) q s = putStrLoop c n (q + 1) (drawn c (s.hmem.read q) s) := by
  have h0 : s.hmem.read q ≠ 0 := by
    intro h0
    rw [h0] at h
    exact absurd h.1 (by decide)
  rw [putStrLoop_succ, if_neg h0, putChar_drawn c h hw]

/-- A property of states that drawing keeps holds of the state PUTSTR answers from. -/
theorem putStrLoop_cases (c : Config) (P : State → Prop)
    (hP : ∀ code s, P s → WindowAccepted s.curX.toNat s.curY.toNat 6 8 → P (drawn c code s)) :
    ∀ (n q : Nat) (s : State), P s →
      ∃ t, P t ∧ (putStrLoop c n q s = t.respond 0 ∨ putStrLoop c n q s = t.raise .addressError ∨
        putStrLoop c n q s = t.raise .glyphRangeError ∨ putStrLoop c n q s = t.raise .geometryError)
  | 0, _, s, h => ⟨s, h, .inr (.inl rfl)⟩
  | n + 1, q, s, h => by
    rw [putStrLoop_succ]
    split
    · exact ⟨s, h, .inl rfl⟩
    · by_cases hr : Renderable (s.hmem.read q)
      · by_cases hw : WindowAccepted s.curX.toNat s.curY.toNat 6 8
        · rw [putChar_drawn c hr hw]
          exact putStrLoop_cases c P hP n (q + 1) _ (hP _ _ h hw)
        · refine ⟨s, h, .inr (.inr (.inr ?_))⟩
          unfold putChar
          rw [glyphIndex_renderable hr]
          simp only [setWindow_refused c hw, Except.map]
      · rw [putChar_refused c s hr]
        exact ⟨s, h, .inr (.inr (.inl rfl))⟩

end Sys2Proof.Machine
end

