-- ==== Sys2Proof/Tests/Slice0.lean ====
section
/-! SUPPORT. The model's own tests: words of the opcode table, the worked vectors of 95_test_vectors.md. Every expected
value is the spec's, the vector's name in the docstring; "V-..." are names of that file. -/

namespace Sys2Proof.Tests

-- One kernel evaluation at a time: run side by side they need more memory than the check allows.
set_option Elab.async false

open Sys2Proof.Machine

/-! ### Decoding: words written out from the fields of R41 and the opcodes of R43 -/

/-- V-IDX-1. -/
theorem test_decode_pxset : decode 0x100009010000 = .legal (.pxset 0 9 1) := by decide
/-- V-IDX-2. -/
theorem test_decode_pxclr : decode 0x110009000000 = .legal (.pxclr 0 9) := by decide
/-- V-IDX-5. -/
theorem test_decode_pxget : decode 0x12532F000000 = .legal (.pxget 83 47) := by decide
/-- V-ENC-15. -/
theorem test_decode_fbwr : decode 0x13AB000001F7 = .legal (.fbwr 0xAB 503) := by decide
/-- V-IDX-13. -/
theorem test_decode_fbrd : decode 0x1400000001F7 = .legal (.fbrd 503) := by decide
/-- V-WIN-4. -/
theorem test_decode_setwin : decode 0x200C10060800 = .legal (.setwin 12 16 6 8) := by decide
/-- V-WIN-13. -/
theorem test_decode_rstwin : decode 0x210000000000 = .legal .rstwin := by decide
/-- V-STR-1, V-STR-3, V-STR-4. -/
theorem test_decode_stream :
    decode 0x300000000000 = .legal .streamNone ∧ decode 0x300100000000 = .legal .streamFb ∧
    decode 0x300200000300 = .legal (.streamHmem 0x0300) := by decide
/-- V-CHR-1. -/
theorem test_decode_putchar : decode 0x404100000000 = .legal (.putchar 0x41) := by decide
/-- V-STR-S1. -/
theorem test_decode_putstr : decode 0x41000000FFFE = .legal (.putstr 0xFFFE) := by decide
/-- V-CUR-1. -/
theorem test_decode_setcur : decode 0x420D05000000 = .legal (.setcur 13 5) := by decide
/-- V-CLR-1. -/
theorem test_decode_clear : decode 0x430000000000 = .legal .clear := by decide
/-- V-BMP-1. -/
theorem test_decode_impbmp : decode 0x500A09070200 = .legal (.impbmp 10 9 7 0x0200) := by decide
/-- V-INIT-1, V-DRAW-1, V-DISP-1. -/
theorem test_decode_surface :
    decode 0x600000000000 = .legal .init ∧ decode 0x610000001000 = .legal (.drawfull 0x1000) ∧
    decode 0x620000000000 = .legal .dispbuf := by decide
/-- V-ENC-1 to V-ENC-3: unknown opcodes. -/
theorem test_decode_unknown :
    decode 0x000000000000 = .illegal .unknownOp ∧ decode 0xFFFFFFFFFFFF = .illegal .unknownOp ∧
    decode 0x150000000000 = .illegal .unknownOp := by decide
/-- V-ENC-4, V-ENC-8, V-ENC-9, V-ENC-10. -/
theorem test_decode_operand_values :
    decode 0x100000020000 = .illegal .pxsetValue ∧ decode 0x300300000000 = .illegal .streamMode ∧
    decode 0x300100000001 = .illegal .streamPointer ∧ decode 0x300000000100 = .illegal .streamPointer := by decide
/-- V-ENC-5, V-ENC-6, V-ENC-7, V-ENC-11, V-ENC-12, V-ENC-13. -/
theorem test_decode_reserved :
    decode 0x110000010000 = .illegal .reservedField ∧ decode 0x130101000000 = .illegal .reservedField ∧
    decode 0x200000543001 = .illegal .reservedField ∧ decode 0x300200010000 = .illegal .reservedField ∧
    decode 0x404100000001 = .illegal .reservedField ∧ decode 0x610100000000 = .illegal .reservedField := by decide
/-- No two rows of spec/opcode_table.json share a word: they differ in a bit both fix. -/
theorem test_rows_disjoint :
    opcodeTable.Pairwise (fun r q => (r.pattern ^^^ q.pattern) &&& r.mask &&& q.mask ≠ 0) := by decide
/-- The word as the table numbers it, and one that is no request. -/
theorem test_decodeTableWord :
    decodeTableWord 48 0x410000001234 = some (.putstr 0x1234) ∧ decodeTableWord 56 0x01410000001234 = none ∧
    decodeTableWord 48 0 = none := by decide

/-! ### WellFormed: the ill-formed term of its one check (R44 clause 3) -/

theorem test_wellFormed_refuses_pxset_value : (Instr.pxset 0 0 2).wellFormed = false := by decide
theorem test_wellFormed_accepts_pxset_one : (Instr.pxset 255 255 1).wellFormed = true := by decide

/-! ### Small states, and the sample configuration CFG_A of 95_test_vectors.md section 0 -/

/-- CFG_A, with the glyph of V-CHR-6 for 0x7F. -/
def cfgA : Config where
  glyph := fun g k =>
    match g.val with
    | 33 => [0x7E, 0x11, 0x11, 0x11, 0x7E].getD k.val 0
    | 34 => [0x7F, 0x49, 0x49, 0x49, 0x36].getD k.val 0
    | 95 => [0x01, 0x02, 0x03, 0x04, 0x05].getD k.val 0
    | _ => 0
  xOfs := 22
  yOfs := 40
  cmdCaset := 0x2A
  cmdRaset := 0x2B
  cmdRamwr := 0x2C
  initTx := []
  drawfullResetsCursor := false

/-- The registers of reset, FB all `v`. -/
def blank (v : Byte) : State := { State.reset with fb := Vector.replicate 504 v }

/-- The same with bytes of HMEM placed from `addr` on. -/
def withHmem (s : State) (addr : Nat) (bytes : List Byte) : State :=
  { s with hmem := (bytes.zipIdx addr).foldl (fun m p => Memory.write m p.2 p.1) s.hmem }

/-- The next state's part, where there is one. -/
def look {α : Type} (f : State → α) (o : Host.Outcome State Fault Refusal) : Option α :=
  match o with
  | .next s => some (f s)
  | .fault _ => none
  | .refused _ => none

/-- Cursor and window. -/
def registers (s : State) : List Nat := [s.curX.toNat, s.curY.toNat, s.winW.toNat, s.winH.toNat]

/-- The last response. -/
def answer (s : State) : Option Response := s.responses.getLast?

/-- FB bytes at some indices. -/
def bytesAt (ks : List Nat) (s : State) : List Byte := ks.map (fbReadByte s.fb)

/-- One request through decoder and step. -/
def request (s : State) (w : Request) : Host.Outcome State Fault Refusal := step { s with host := [.request w] }

/-! ### The framebuffer bit indexer -/

/-- V-IDX-1. -/
theorem test_pxset : look (bytesAt [83, 84, 85]) (request (blank 0) 0x100009010000) = some [0, 2, 0] := by
  decide +kernel
/-- V-IDX-8. -/
theorem test_pxset_out_of_range : look answer (request (blank 0) 0x100030010000) = some (some ⟨.geometryError, 0⟩) := by
  decide +kernel
/-- V-IDX-2. -/
theorem test_pxclr : look (bytesAt [83, 84, 85]) (request (blank 0xFF) 0x110009000000) = some [0xFF, 0xFD, 0xFF] := by
  decide +kernel
/-- V-IDX-5, V-IDX-6. -/
theorem test_pxget :
    look answer (request (blank 0x80) 0x12532F000000) = some (some ⟨.ok, 1⟩) ∧
    look answer (request (blank 0x7F) 0x12532F000000) = some (some ⟨.ok, 0⟩) := by decide +kernel
/-- V-IDX-13, V-IDX-14. -/
theorem test_fbwr :
    look (bytesAt [502, 503]) (request (blank 0) 0x1380000001F7) = some [0, 0x80] ∧
    look answer (request (blank 0) 0x1301000001F8) = some (some ⟨.addressError, 0⟩) := by decide +kernel
/-- Program P1 step 4, and V-IDX-15. -/
theorem test_fbrd :
    look answer (request (blank 0xA5) 0x140000000054) = some (some ⟨.ok, 0xA5⟩) ∧
    look answer (request (blank 0xA5) 0x14000000FFFF) = some (some ⟨.addressError, 0⟩) := by decide +kernel
/-- A byte written after reset reads back, whatever FB held. -/
theorem test_fbrd_after_fbwr_from_reset :
    look answer (Host.Core.run core 2 { State.reset with host := [.request 0x130200000054, .request 0x140000000054] })
      = some (some ⟨.ok, 2⟩) := by decide +kernel

/-! ### The window address translator -/

/-- V-WIN-3. -/
theorem test_setwin :
    look (fun s => (s.tx, registers s)) (setwinOp cfgA 82 47 2 1 (blank 0)) =
      some ([⟨.command, 0x2A⟩] ++ dataItems [0x00, 0x68, 0x00, 0x69] ++ [⟨.command, 0x2B⟩]
        ++ dataItems [0x00, 0x57, 0x00, 0x57] ++ [⟨.command, 0x2C⟩], [0, 0, 2, 1]) := by decide +kernel
/-- V-WIN-6 to V-WIN-11. -/
theorem test_setwin_refuses :
    ([(83, 0, 2, 1), (0, 0, 85, 1), (0, 0, 86, 1), (0, 0, 0, 8), (0, 0, 6, 0), (0, 41, 6, 8)].all fun q =>
      look (fun s => (s.tx, registers s, answer s)) (setwinOp cfgA q.1 q.2.1 q.2.2.1 q.2.2.2 (blank 0)) ==
        some ([], [0, 0, 84, 48], some ⟨.geometryError, 0⟩)) = true := by decide +kernel
/-- V-WIN-13. -/
theorem test_rstwin :
    look (fun s => (s.tx, registers s)) (rstwinOp cfgA { blank 0 with curX := 30, curY := 16, winW := 6, winH := 8 }) =
      some ([⟨.command, 0x2A⟩] ++ dataItems [0x00, 0x16, 0x00, 0x69] ++ [⟨.command, 0x2B⟩]
        ++ dataItems [0x00, 0x28, 0x00, 0x57] ++ [⟨.command, 0x2C⟩], [0, 0, 84, 48]) := by decide +kernel

/-! ### The pixel codec -/

/-- E8's generic instance. -/
theorem test_packPair : packPair 0xABC 0xDEF = [0xAB, 0xCD, 0xEF] := by decide

/-- A window and the first bytes of FB. -/
def small (w h : Byte) (bytes : List Byte) : State :=
  { blank 0 with winW := w, winH := h, fb := (bytes.zipIdx).foldl (fun fb p => fbWriteByte fb p.2 p.1) (blank 0).fb }

/-- V-STR-2. -/
theorem test_streamFb :
    look State.tx (request (small 4 2 [1, 2, 3, 0]) 0x300100000000) =
      some (dataItems [0x00, 0x0F, 0xFF, 0x00, 0x0F, 0xFF, 0xFF, 0xF0, 0x00, 0x00, 0x0F, 0xFF]) := by decide +kernel
/-- V-STR-5. -/
theorem test_streamFb_domain :
    look (fun s => (s.tx, answer s)) (request (small 6 16 []) 0x300100000000) = some ([], some ⟨.geometryError, 0⟩) := by
  decide +kernel
/-- V-STR-6. -/
theorem test_streamNone :
    look State.tx (request (small 6 16 [1]) 0x300000000000) = some (List.replicate 144 ⟨.data, 0xFF⟩) := by decide +kernel
/-- V-STR-4. -/
theorem test_streamHmem :
    look State.tx (request (withHmem (small 2 4 []) 0x0300 [0x05, 0x0A]) 0x300200000300) =
      some (dataItems [0x00, 0x0F, 0xFF, 0xFF, 0xF0, 0x00, 0x00, 0x0F, 0xFF, 0xFF, 0xF0, 0x00]) := by decide +kernel
/-- V-STR-9, V-STR-10, V-STR-8. -/
theorem test_streamHmem_extent :
    look answer (request (small 2 1 []) 0x30020000FFFE) = some (some ⟨.ok, 0⟩) ∧
    look answer (request (small 2 1 []) 0x30020000FFFF) = some (some ⟨.addressError, 0⟩) ∧
    look answer (request (small 84 48 []) 0x30020000FE09) = some (some ⟨.addressError, 0⟩) := by decide +kernel

/-! ### The glyph ROM and row sequencer -/

/-- V-CHR-1: the packet and rows 0, 1 and 7 of the cell of 'A'. -/
theorem test_putchar :
    look (fun s => (s.tx.take 29, s.tx.drop 74, registers s)) (putcharOp cfgA 0x41 (blank 0)) =
      some ([⟨.command, 0x2A⟩] ++ dataItems [0x00, 0x16, 0x00, 0x1B] ++ [⟨.command, 0x2B⟩]
          ++ dataItems [0x00, 0x28, 0x00, 0x2F] ++ [⟨.command, 0x2C⟩]
          ++ dataItems [0xFF, 0xF0, 0x00, 0x00, 0x00, 0x00, 0xFF, 0xFF, 0xFF]
          ++ dataItems [0x00, 0x0F, 0xFF, 0xFF, 0xFF, 0xFF, 0x00, 0x0F, 0xFF],
        dataItems (List.replicate 9 0xFF), [6, 0, 84, 48]) := by decide +kernel
/-- V-CHR-3, V-CHR-9: wrap over the top, and the second test on its own. -/
theorem test_putchar_wraps :
    look registers (putcharOp cfgA 0x20 { blank 0 with curX := 78, curY := 40 }) = some [0, 0, 84, 48] ∧
    look registers (putcharOp cfgA 0x41 { blank 0 with curY := 40, winH := 8 }) = some [6, 0, 84, 8] := by decide +kernel
/-- V-STR-S1, first and third line. -/
theorem test_putstr :
    look (fun s => (s.tx.length, registers s, answer s)) (putstrOp cfgA 0x0100 (withHmem (blank 0) 0x0100 [0x41, 0x42]))
      = some (166, [12, 0, 84, 48], some ⟨.ok, 0⟩) ∧
    look (fun s => (s.tx.length, registers s, answer s))
      (putstrOp cfgA 0x0500 (withHmem (blank 0) 0x0500 [0x41, 0x0A, 0x42]))
      = some (83, [6, 0, 84, 48], some ⟨.glyphRangeError, 0⟩) := by decide +kernel
/-- V-STR-S1, fourth line. -/
theorem test_putstr_runs_off :
    look (fun s => (s.tx.length, registers s, answer s)) (putstrOp cfgA 0xFFFE (withHmem (blank 0) 0xFFFE [0x41, 0x41]))
      = some (166, [12, 0, 84, 48], some ⟨.addressError, 0⟩) := by decide +kernel
/-- V-CUR-1. -/
theorem test_setcur :
    ([(0x420D05000000, [78, 40]), (0x420E00000000, [30, 0]), (0x420006000000, [0, 16]), (0x422B20000000, [30, 16])].all
      fun q => look (fun s => (registers s).take 2) (request { blank 0 with curX := 30, curY := 16 } q.1) == some q.2)
      = true := by decide +kernel
/-- V-CLR-1. -/
theorem test_clear :
    look (fun s => (s.tx.drop 11 == List.replicate 6048 ⟨.data, 0xFF⟩, registers s))
      (clearOp cfgA { blank 0x5A with curX := 30, curY := 16, winW := 6, winH := 8 }) = some (true, [0, 0, 84, 48]) := by
  decide +kernel

/-! ### The bitmap transcoder -/

/-- The bitmap of V-BMP-1 at 0x0200, the bytes that are never read 0xFF (V-BMP-2). -/
def bitmap (v : Byte) : State :=
  withHmem (withHmem (withHmem (withHmem (blank v) 0x020A [0x18]) 0x0212 [4]) 0x0216 [2]) 0x0218
    [0xF0, 0x0F, 0xFF, 0xFF, 0x8F, 0x7E, 0xFF, 0xFF]

/-- V-BMP-1 with V-BMP-2, V-BMP-3. -/
theorem test_impbmp :
    look (bytesAt [93, 94, 95, 96, 97, 98]) (request (bitmap 0) 0x500A09070200) = some [0, 3, 1, 0, 3, 0] ∧
    look (bytesAt [93, 94, 95, 96, 97, 98]) (request (bitmap 0xFF) 0x500A09070200)
      = some [0xFF, 0xFF, 0xFD, 0xFC, 0xFF, 0xFF] := by decide +kernel
/-- V-BMP-4 (thr 8, 200), V-BMP-5 (ypos 48, the two last lines). -/
theorem test_impbmp_threshold_and_checks :
    look (bytesAt [94, 95, 96, 97]) (request (bitmap 0) 0x500A09080200) = some [2, 1, 0, 3] ∧
    look (bytesAt [94, 95, 96, 97]) (request (bitmap 0) 0x500A09C80200) = some [2, 1, 0, 2] ∧
    look answer (request (bitmap 0) 0x500A30070200) = some (some ⟨.geometryError, 0⟩) ∧
    look answer (request (blank 0) 0x50000907FFE9) = some (some ⟨.geometryError, 0⟩) ∧
    look answer (request (blank 0) 0x50000907FFEA) = some (some ⟨.addressError, 0⟩) := by decide +kernel

/-! ### The compatibility surface -/

/-- V-INIT-1, second configuration. -/
theorem test_init :
    look (fun s => (s.tx, registers s)) (initOp { cfgA with initTx := [⟨.command, 0x11⟩, ⟨.data, 0x05⟩] }
      { blank 0 with curX := 30, curY := 16, winW := 6, winH := 8 })
      = some ([⟨.command, 0x11⟩, ⟨.data, 0x05⟩], [0, 0, 84, 48]) := by decide +kernel
/-- V-DRAW-1: the first triple, and the cursor in both configurations. -/
theorem test_drawfull :
    look (fun s => ((s.tx.drop 11).take 6, registers s)) (drawfullOp cfgA 0x1000
      { withHmem (blank 0) 0x1000 [1] with curX := 12, curY := 8, winW := 6, winH := 8 })
      = some (dataItems [0x00, 0x0F, 0xFF, 0xFF, 0xFF, 0xFF], [12, 8, 84, 48]) ∧
    look registers (drawfullOp { cfgA with drawfullResetsCursor := true } 0x1000 { blank 0 with curX := 12, curY := 8 })
      = some [0, 0, 84, 48] := by decide +kernel
/-- V-DRAW-2. -/
theorem test_drawfull_extent :
    look answer (drawfullOp cfgA 0xFE08 (blank 0)) = some (some ⟨.ok, 0⟩) ∧
    look answer (drawfullOp cfgA 0xFE09 (blank 0)) = some (some ⟨.addressError, 0⟩) := by decide +kernel
/-- P3's second triple: bytes 1026 to 1028 of the stream. -/
theorem test_dispbuf :
    look (fun s => (s.tx.drop 1037).take 3) (dispbufOp cfgA
      { blank 0 with fb := fbWriteByte (fbWriteByte (fbWriteByte (blank 0).fb 94 3) 95 1) 97 3 })
      = some (dataItems [0xFF, 0xF0, 0x00]) := by decide +kernel

/-! ### The sequencer and the observer -/

/-- V-ENC-7 (R107): an illegal word is refused before its operands are looked at. -/
theorem test_illegal_word :
    look (fun s => (answer s, s.tx, registers s)) (request (blank 0) 0x200000550101)
      = some (some ⟨.illegalRequest, 0⟩, [], [0, 0, 84, 48]) := by decide +kernel
/-- The 16-bit response word of V-ENC-1, `4/00`, and of `0/80` (R45). -/
theorem test_response_word :
    Response.word ⟨.illegalRequest, 0⟩ = 0x0400 ∧ Response.word ⟨.ok, 0x80⟩ = 0x0080 := by decide
/-- Every row's word is offered and answered as the first request after reset. -/
theorem test_withFetchWord :
    look answer (step (State.withFetchWord State.reset 48 0x620000000000)) = some (some ⟨.ok, 0⟩) := by decide +kernel
/-- E6 for 'B' at (6, 0): the reference receiver sees the columns of the glyph, `7F 49 49 49 36 00`. -/
theorem test_panel_shows_glyph :
    look (fun s => (List.range 6).map fun px => (List.range 8).map fun py =>
        (Panel.receive cfgA Panel.blank s.tx).pixel (6 + px + 22) (py + 40))
      (putcharOp cfgA 0x42 { blank 0 with curX := 6 })
      = some ([0x7F, 0x49, 0x49, 0x49, 0x36, 0x00].map fun col : Byte =>
          (List.range 8).map fun py => some (if col.getLsbD py then 0x000 else 0xFFF)) := by decide +kernel
/-- The discipline of R115 on a list of moves from blank. -/
def disciplined (moves : List HostMove) : Bool := streamsPacketed { blank 0 with host := moves }

/-- R115: a STREAM right after SETWIN, and with requests in between that send nothing: FBWR, a write of HMEM, a refused
SETWIN, an illegal STREAM word, PUTSTR of an empty string. -/
theorem test_streamsPacketed_keeps :
    disciplined [.request 0x200000020100, .request 0x300100000000] = true ∧
    disciplined [.request 0x200000020100, .request 0x130100000000, .hmemWrite 0 1, .request 0x200000030100,
      .request 0x300300000000, .request 0x410000000001, .request 0x300100000000] = true := by decide +kernel
/-- R115: a STREAM first of all, after a refused SETWIN alone, after a STREAM, after PUTCHAR (R118), after a reset. -/
theorem test_streamsPacketed_breaks :
    ([[.request 0x300100000000], [.request 0x200000030100, .request 0x300000000000],
      [.request 0x200000020100, .request 0x300100000000, .request 0x300100000000],
      [.request 0x200000020100, .request 0x404100000000, .request 0x300100000000],
      [.request 0x200000020100, .reset, .request 0x300100000000]].all fun l => !disciplined l) = true := by
  decide +kernel

/-! ### Hypotheses met: for each obligation with premises, a state and operands that meet all of them, one for each
clause, at the ends of its range -/

/-- DecoderFollowsTheOpcodeTable: a row, a word of it and a word of none. -/
theorem test_meets_decoderFollowsTheOpcodeTable :
    Instr.row (.pxset 0 0 0) ∈ opcodeTable ∧ (Instr.row (.pxset 0 0 0)).covers 0x10FFFF010000 = true ∧
    (opcodeTable.all fun r => !r.covers 0x10FFFF020000) = true := by decide

/-- A state whose host offers one word. -/
def offering (w : Request) : State := { blank 0 with host := [.request w] }

/-- IllegalWordsAreAnsweredFour: a word for each of the five clauses (of clause 2 both ends of the word), and legal words
at the edge of clauses 3 and 4. -/
theorem test_meets_illegalWordsAreAnsweredFour :
    ([0x150000000000, 0x620000000001, 0x610100000000, 0x100000020000, 0x300300000000, 0x300100000001].all fun w =>
      look answer (step (offering w)) == some (some ⟨.illegalRequest, 0⟩)) = true ∧
    (offering 0x15).host = .request 0x15 :: [] ∧
    decode 0x100000010000 = .legal (.pxset 0 0 1) ∧ decode 0x30020000FFFF = .legal (.streamHmem 0xFFFF) := by
  decide +kernel

/-- EveryRequestGetsOneResponse: a request that is answered, PXGET and FBRD among them. -/
theorem test_meets_everyRequestGetsOneResponse :
    (∃ t, step (offering 0x12532F000000) = .next t) ∧ (∃ t, step (offering 0x1400000001F7) = .next t) ∧
    decode 0x12532F000000 = .legal (.pxget 83 47) ∧ decode 0x1400000001F7 = .legal (.fbrd 503) :=
  ⟨⟨_, rfl⟩, ⟨_, rfl⟩, by decide, by decide⟩

/-- StepPerformsTheDecodedRequest: the last word below 2^48 that is legal, offered and put in front. -/
theorem test_meets_stepPerformsTheDecodedRequest :
    (offering 0x620000000000).host = .request 0x620000000000 :: [] ∧ decode 0x620000000000 = .legal .dispbuf ∧
    0x620000000000 < 2 ^ 48 ∧ decode (BitVec.ofNat 48 0x620000000000) = .legal .dispbuf := by decide

/-- HostMovesBetweenOperations: idle, and a write to the last address. -/
theorem test_meets_hostMovesBetweenOperations :
    (blank 0).host = [] ∧ ({ bitmap 0 with host := [.hmemWrite 0xFFFF 0x41] } : State).hmem.wf = true ∧
    look (fun s => (s.hmem.read 0xFFFF, s.hmem.wf)) (step { bitmap 0 with host := [.hmemWrite 0xFFFF 0x41] })
      = some (0x41, true) := by decide +kernel

/-- ResetMoveRestartsTheBlock: a block with a moved cursor and window is reset. -/
theorem test_meets_resetMoveRestartsTheBlock :
    look registers (step { blank 0 with curX := 30, winW := 6, host := [.reset] }) = some [0, 0, 84, 48] := by
  decide +kernel

/-- PixelMapIsABijection, and PXSET, PXCLR, PXGET: the two extreme pixels, both values, and coordinates just outside. -/
theorem test_meets_pixels :
    ((83 : Byte).toNat < 84 ∧ (47 : Byte).toNat < 48 ∧ (0 : Byte).toNat < 84 ∧ (1 : Byte).toNat ≤ 1) ∧
    ((83, 47) : Byte × Byte) ≠ (0, 0) ∧ 1 < (2 : Byte).toNat ∧
    ¬ ((84 : Byte).toNat < 84 ∧ (0 : Byte).toNat < 48) ∧ ¬ ((0 : Byte).toNat < 84 ∧ (48 : Byte).toNat < 48) := by decide

/-- FbwrWritesExactlyOneByte, FbrdAnswersTheByte: the last index and the first beyond it. -/
theorem test_meets_bytes : (503 : Ptr).toNat < 504 ∧ 504 ≤ (504 : Ptr).toNat := by decide

/-- SetwinSendsThePacketOrRefuses: the largest, the smallest and the rightmost window, and one refused by each check. -/
theorem test_meets_setwin :
    ([(0, 0, 84, 48), (0, 0, 2, 1), (82, 47, 2, 1)].all fun q : Nat × Nat × Nat × Nat =>
      decide (q.2.2.1 % 2 = 0 ∧ q.2.2.1 ≠ 0 ∧ q.2.2.2 ≠ 0 ∧ q.1 + q.2.2.1 ≤ 84 ∧ q.2.1 + q.2.2.2 ≤ 48)) = true ∧
    ([(0, 0, 3, 1), (0, 0, 0, 1), (0, 0, 2, 0), (83, 0, 2, 1), (0, 48, 2, 1)].all fun q : Nat × Nat × Nat × Nat =>
      !decide (q.2.2.1 % 2 = 0 ∧ q.2.2.1 ≠ 0 ∧ q.2.2.2 ≠ 0 ∧ q.1 + q.2.2.1 ≤ 84 ∧ q.2.1 + q.2.2.2 ≤ 48)) = true := by
  decide

/-- StreamSendsTheWindow: windows inside the domain at its two ends, one outside, and the last readable address. -/
theorem test_meets_streamSendsTheWindow :
    (WindowWidthOk (small 84 48 []) ∧ WindowHeightOk (small 84 48 [])) ∧
    (WindowWidthOk (small 2 8 []) ∧ WindowHeightOk (small 2 8 [])) ∧
    (WindowWidthOk (small 82 9 []) ∧ WindowHeightOk (small 82 9 [])) ∧ ¬ (82 = 84 ∨ 9 ≤ 8) ∧
    (0xFE08 : Ptr).toNat + 84 * ((48 + 7) / 8) ≤ 65536 ∧ 65536 < (0xFE09 : Ptr).toNat + 84 * ((48 + 7) / 8) ∧
    (0xFFFE : Ptr).toNat + 2 * ((8 + 7) / 8) ≤ 65536 ∧ 65536 < (0xFFFF : Ptr).toNat + 2 * ((8 + 7) / 8) := by
  decide +kernel

/-- PutcharDrawsTheCellAndAdvances: the first and last renderable codes, their neighbours, in a state of the invariant
with the cursor at the last cell. -/
theorem test_meets_putchar :
    Inv { blank 0 with curX := 78, curY := 40 } ∧ Renderable 0x20 ∧ Renderable 0x7F ∧ ¬ Renderable 0x1F ∧
    ¬ Renderable 0x80 := by decide +kernel

/-- PutstrAppliesPutcharInTurn, PutstrStopsAtTheFirstUndrawnByte: the terminator, a byte without a glyph, a character
with more to come and one at the last address. -/
theorem test_meets_putstr :
    Inv (withHmem (blank 0) 0x0500 [0x41, 0x0A]) ∧ Renderable ((withHmem (blank 0) 0x0500 [0x41, 0x0A]).hmem.read 0x0500) ∧
    ¬ Renderable ((withHmem (blank 0) 0x0500 [0x41, 0x0A]).hmem.read 0x0501) ∧
    (withHmem (blank 0) 0x0500 [0x41, 0x0A]).hmem.read 0x0501 ≠ 0 ∧ (blank 0).hmem.read 0x0502 = 0 ∧
    Inv (withHmem (blank 0) 0xFFFF [0x41]) ∧ Renderable ((withHmem (blank 0) 0xFFFF [0x41]).hmem.read 0xFFFF) := by
  decide +kernel

/-- TextFillsTheGrid: two characters, and none, from the origin in the default window. -/
theorem test_meets_textFillsTheGrid :
    let s := withHmem (blank 0) 0x0100 [0x41, 0x42]
    Inv s ∧ s.curX = 0 ∧ s.curY = 0 ∧ s.winW = 84 ∧ s.winH = 48 ∧ 0x0100 + 2 < 65536 ∧
    (∀ k < 2, Renderable (s.hmem.read (0x0100 + k))) ∧ s.hmem.read (0x0100 + 2) = 0 ∧
    s.hmem.read (0xFFFF + 0) = 0 := by decide +kernel

/-- SetcurAppliesEachAxisAlone: the last cell accepted and the first refused on each axis. -/
theorem test_meets_setcur :
    (13 : Byte).toNat * 6 + 6 ≤ 84 ∧ 84 < (14 : Byte).toNat * 6 + 6 ∧
    (5 : Byte).toNat * 8 + 8 ≤ 48 ∧ 48 < (6 : Byte).toNat * 8 + 8 := by decide

/-- ImpbmpWritesTheTargetRectangle: the 4 by 2 bitmap of V-BMP-1 in the two far corners of the framebuffer. -/
theorem test_meets_impbmpWritesTheTargetRectangle :
    let byteAt (k : Nat) : Nat := ((bitmap 0).hmem.read (0x0200 + k)).toNat
    0x0200 + 22 ≤ 65535 ∧ 0 < byteAt 22 ∧ byteAt 18 % 2 = 0 ∧ 80 + byteAt 18 ≤ 84 ∧ byteAt 22 ≤ 1 + 1 ∧ 47 ≤ 47 ∧
    0 < byteAt 18 ∧ 0x0200 + byteAt 10 + (byteAt 22 - 1) * 4 + byteAt 18 / 2 - 1 ≤ 65535 := by decide +kernel

/-- A bitmap whose header is the last 23 bytes of HMEM but for `k`, so that its data lies at the end. -/
def lateBitmap (k : Nat) : State :=
  withHmem (withHmem (withHmem (blank 0) (65513 - k + 10) [0x18]) (65513 - k + 18) [4]) (65513 - k + 22) [2]

/-- ImpbmpChecksInOrder: each clause, at the last address it turns on: 0xFFEA and 0xFFE9 for the header, ypos 48 and 47,
and data ending at 65535 and at 65536. -/
theorem test_meets_impbmpChecksInOrder :
    ¬ (0xFFEA + 22 ≤ 65535) ∧ 0xFFE9 + 22 ≤ 65535 ∧
    look answer (request (bitmap 0) 0x505030070200) = some (some ⟨.geometryError, 0⟩) ∧
    look answer (request (bitmap 0) 0x50502F070200) = some (some ⟨.ok, 0⟩) ∧
    look answer (request (lateBitmap 7) 0x50002F07FFE2) = some (some ⟨.ok, 0⟩) ∧
    look answer (request (lateBitmap 6) 0x50002F07FFE3) = some (some ⟨.addressError, 0⟩) := by decide +kernel

/-- ImpbmpIsIdempotent: an import that is answered. -/
theorem test_meets_impbmpIsIdempotent : ∃ t, exec (.impbmp 10 9 7 0x0200) (bitmap 0) = .next t := ⟨_, rfl⟩

/-- ImpbmpReadsOnlyHeaderAndData: a memory that differs in a padding byte and an unread header byte. -/
theorem test_meets_impbmpReadsOnlyHeaderAndData :
    let s := bitmap 0
    let m := (s.hmem.write 0x021A 0x55).write 0x0213 0x77
    m ≠ s.hmem ∧ (∀ k ∈ [10, 18, 22], m.read (0x0200 + k) = s.hmem.read (0x0200 + k)) ∧
    (∀ r < 2, ∀ k < 2, m.read (0x0200 + (24 + r * (2 + (4 - 2 % 4) % 4) + k))
      = s.hmem.read (0x0200 + (24 + r * (2 + (4 - 2 % 4) % 4) + k))) := by decide +kernel

/-- DrawfullSendsTheBuffer: the highest legal address and the next. -/
theorem test_meets_drawfull : (0xFE08 : Ptr).toNat + 504 ≤ 65536 ∧ 65536 < (0xFE09 : Ptr).toNat + 504 := by decide

/-- DrawfullOfACopyIsDispbuf: the highest legal address, HMEM holding what FB holds: one pixel. -/
theorem test_meets_drawfullOfACopy :
    let s := withHmem { blank 0 with fb := fbWriteByte (blank 0).fb 0 1 } 0xFE08 [1]
    0xFE08 + 504 ≤ 65536 ∧ ∀ k < 504, s.hmem.read (0xFE08 + k) = fbReadByte s.fb k := by
  refine ⟨by decide, fun k hk => ?_⟩
  show Memory.read [(0xFE08, 1)] (0xFE08 + k) = fbReadByte (fbWriteByte (Vector.replicate 504 0) 0 1) k
  rw [fbReadByte_fbWriteByte _ (by decide)]
  by_cases h : k = 0
  · simp [h, Memory.read]
  · simp [h, Memory.read, Memory.unlisted, fbReadByte, hk]

/-- EveryStepKeepsTheInvariant, NoStepStopsTheMachine, EveryRequestListRunsToItsEnd: a state of the invariant with two
requests, an illegal one among them, and its step. -/
theorem test_meets_invariant :
    Inv { blank 0 with host := [.request 0, .request 0x620000000000] } ∧
    ({ blank 0 with host := [.request 0, .request 0x620000000000] } : State).host
      = [0, 0x620000000000].map HostMove.request ∧
    ∃ t, step { blank 0 with host := [.request 0, .request 0x620000000000] } = .next t :=
  ⟨by decide +kernel, rfl, ⟨_, rfl⟩⟩

/-- DisciplinedStreamsFollowTheirPacket: SETWIN, FBWR and STREAM FB, of which two have been performed. -/
theorem test_meets_disciplinedStreams :
    disciplined [.request 0x200000020100, .request 0x130100000000, .request 0x300100000000] = true ∧
    look (fun t => t.host) (Host.Core.run core 2 { blank 0 with
      host := [.request 0x200000020100, .request 0x130100000000, .request 0x300100000000] })
      = some [.request 0x300100000000] ∧
    decode 0x300100000000 = .legal .streamFb := by decide +kernel

/-- StreamFbAloneCanStop: a window of 84 by 49, which I4 of R18 excludes. -/
theorem test_meets_streamFbAloneCanStop :
    (small 84 49 []).winW.toNat = 84 ∧
    504 < (small 84 49 []).winW.toNat * (((small 84 49 []).winH.toNat + 7) / 8) ∧
    exec .streamFb (small 84 49 []) = .fault .sourceBeyondFramebuffer := ⟨by decide, by decide, rfl⟩

/-- ErrorsChangeNothingButPutstr: an error that is answered. -/
theorem test_meets_errorsChangeNothing :
    exec (.pxset 84 0 1) (blank 0) = .next (answered (blank 0) .geometryError 0) ∧
    ∀ addr, Instr.pxset 84 0 1 ≠ .putstr addr := ⟨rfl, fun _ h => by cases h⟩

/-- OnlyTheListedOperationsWrite, HistoryIsNeverRead, ItemCountsOfEachOperation: an operation answered OK. -/
theorem test_meets_answeredOk :
    Inv (blank 0) ∧ (∃ t, exec (.fbrd 503) (blank 0) = .next t) ∧
    look answer (exec (.fbrd 503) (blank 0)) = some (some ⟨.ok, 0⟩) := ⟨by decide +kernel, ⟨_, rfl⟩, by decide +kernel⟩

/-- The two panel statements: commands that differ, and the two operations answered under them. -/
theorem test_meets_panel :
    commandsDiffer cfgA ∧ (∃ t, dispbufOp cfgA (blank 0) = .next t) ∧
    (∃ t, putcharOp cfgA 0x41 (blank 0) = .next t) ∧ Renderable 0x41 := ⟨by decide, ⟨_, rfl⟩, ⟨_, rfl⟩, by decide⟩

end Sys2Proof.Tests
end

section
/-! SUPPORT. What an operation can do, said once (R20, R30, R106): the state it answers from, and that it answers. -/

namespace Sys2Proof.Machine

/-! ### The answer of a request, field by field -/

section Answered

variable (s : State) (e : Status) (d : Byte)

@[simp] theorem answered_fb : (answered s e d).fb = s.fb := rfl
@[simp] theorem answered_curX : (answered s e d).curX = s.curX := rfl
@[simp] theorem answered_curY : (answered s e d).curY = s.curY := rfl
@[simp] theorem answered_winW : (answered s e d).winW = s.winW := rfl
@[simp] theorem answered_winH : (answered s e d).winH = s.winH := rfl
@[simp] theorem answered_tx : (answered s e d).tx = s.tx := rfl
@[simp] theorem answered_responses : (answered s e d).responses = s.responses ++ [⟨e, d⟩] := rfl
@[simp] theorem answered_hmem : (answered s e d).hmem = s.hmem := rfl
@[simp] theorem answered_host : (answered s e d).host = s.host := rfl
@[simp] theorem answered_resets : (answered s e d).resets = s.resets := rfl

end Answered

/-! ### What the operations with a window or a text do, as equations -/

/-- SetWindow succeeds only on a rectangle that passes the checks of R62. -/
theorem setWindow_ok {c : Config} {x y w h : Nat} {s u : State} (hu : setWindow c x y w h s = .ok u) :
    WindowAccepted x y w h ∧ u = (s.send (packet c x y w h)).setWindowSize w h := by
  by_cases hok : WindowAccepted x y w h
  · rw [setWindow_accepted c hok] at hu
    exact ⟨hok, (Except.ok.inj hu).symm⟩
  · rw [setWindow_refused c hok] at hu
    cases hu

theorem flush_eq (c : Config) (bytes : List Byte) (s : State) :
    flush c bytes s = .ok ((((s.send (packet c 0 0 84 48)).setWindowSize 84 48).homeCursorIf
      c.drawfullResetsCursor).send (streamItems (some bytes) 84 48)) := by
  simp [flush, setWindow_default, Except.map, State.homeCursorIf_eq]

/-- Characters drawn one after the other by the chip's text engine (R77, R79). -/
abbrev DrawsText : State → State → Prop := Relation.ReflTransGen fun s t => ∃ code, t = drawn Config.chip code s

/-- What every state a text passes through shares with the first: all but the cursor and TX. -/
theorem DrawsText.frame {s t : State} (h : DrawsText s t) :
    t.fb = s.fb ∧ t.winW = s.winW ∧ t.winH = s.winH ∧ t.responses = s.responses ∧ t.hmem = s.hmem ∧ t.host = s.host ∧
    t.resets = s.resets := by
  induction h with
  | refl => simp
  | tail _ hdraw ih =>
    obtain ⟨code, rfl⟩ := hdraw
    exact ih

/-! ### The operations -/

/-- `Performs i s u`: performed on `s`, the operation `i` may answer from `u`, that is, leave `u` with its response
added. Each operation has its own writes, and any operation may leave the state alone: the reads do, and so does an
error (R106). -/
inductive Performs : Instr → State → State → Prop where
  | unchanged (i : Instr) (s : State) : Performs i s s
  | pxset (x y v : Byte) (s : State) (fb : Framebuffer) : Performs (.pxset x y v) s (s.setFb fb)
  | pxclr (x y : Byte) (s : State) (fb : Framebuffer) : Performs (.pxclr x y) s (s.setFb fb)
  | fbwr (val : Byte) (idx : Ptr) (s : State) (fb : Framebuffer) : Performs (.fbwr val idx) s (s.setFb fb)
  | impbmp (xpos ypos thr : Byte) (addr : Ptr) (s : State) (fb : Framebuffer) :
    Performs (.impbmp xpos ypos thr addr) s (s.setFb fb)
  | setwin (x y w h : Byte) (s : State) (hok : WindowAccepted x.toNat y.toNat w.toNat h.toNat) :
    Performs (.setwin x y w h) s
      ((s.send (packet Config.chip x.toNat y.toNat w.toNat h.toNat)).setWindowSize w.toNat h.toNat)
  | rstwin (s : State) :
    Performs .rstwin s (((s.send (packet Config.chip 0 0 84 48)).setWindowSize 84 48).setCursor 0 0)
  | streamNone (s : State) : Performs .streamNone s (streamWindow none s)
  | streamFb (s : State) : Performs .streamFb s (streamWindow (some s.fb.toList) s)
  | streamHmem (addr : Ptr) (s : State) (bytes : List Byte) :
    Performs (.streamHmem addr) s (streamWindow (some bytes) s)
  | putchar (code : Byte) (s : State) : Performs (.putchar code) s (drawn Config.chip code s)
  | putstr (addr : Ptr) {s u : State} (hdraw : DrawsText s u) : Performs (.putstr addr) s u
  | setcur (cx cy : Byte) (s : State) :
    Performs (.setcur cx cy) s (s.setCursor ((cellPosition cx.toNat 6 84).getD s.curX.toNat)
      ((cellPosition cy.toNat 8 48).getD s.curY.toNat))
  | clear (s : State) :
    Performs .clear s (streamWindow none
      (((s.send (packet Config.chip 0 0 84 48)).setWindowSize 84 48).setCursor 0 0))
  | init (s : State) : Performs .init s (((s.send Config.chip.initTx).setWindowSize 84 48).setCursor 0 0)
  | drawfull (addr : Ptr) (s : State) (items : List TxItem) :
    Performs (.drawfull addr) s ((((s.send (packet Config.chip 0 0 84 48)).setWindowSize 84 48).homeCursorIf
      Config.chip.drawfullResetsCursor).send items)
  | dispbuf (s : State) (items : List TxItem) :
    Performs .dispbuf s ((((s.send (packet Config.chip 0 0 84 48)).setWindowSize 84 48).homeCursorIf
      Config.chip.drawfullResetsCursor).send items)

/-- The outcome `o` answers the operation `i` performed on `s`, with one response. -/
def Answers (i : Instr) (s : State) (o : Host.Outcome State Fault Refusal) : Prop :=
  ∃ u e d, Performs i s u ∧ o = .next (answered u e d)

/-- An operation that ends in `finish` answers, and from what its attempt leaves. -/
theorem finish_answers {i : Instr} {s : State} {r : Attempt} (h : ∀ u, r = .ok u → Performs i s u) :
    Answers i s (finish s r) := by
  obtain ⟨u, rfl, hu⟩ | ⟨e, rfl, he⟩ := finish_cases s r
  · exact ⟨u, .ok, 0, h u rfl, hu⟩
  · exact ⟨s, e, 0, .unchanged i s, he⟩

/-- A guarded attempt leaves a state only when the guard holds, and then that of its branch. -/
theorem ok_of_ite {p : Prop} [Decidable p] {e : Status} {r : Attempt} {u : State}
    (h : (if p then .error e else r) = Except.ok u) : r = .ok u := by
  by_cases hp : p
  · rw [if_pos hp] at h; cases h
  · rwa [if_neg hp] at h

theorem writePixel_answers {i : Instr} {s : State} (x y : Nat) (v : Bool) (h : ∀ fb, Performs i s (s.setFb fb)) :
    Answers i s (writePixel x y v s) := by
  refine finish_answers fun u hu => ?_
  split at hu <;> cases hu
  exact h _

theorem execFbwr_answers (val : Byte) (idx : Ptr) (s : State) : Answers (.fbwr val idx) s (execFbwr val idx s) :=
  finish_answers fun u hu => by
    cases ok_of_ite hu
    exact .fbwr val idx s _

theorem execPxget_answers (x y : Byte) (s : State) : Answers (.pxget x y) s (execPxget x y s) := by
  unfold execPxget
  split
  · exact ⟨s, _, _, .unchanged _ s, rfl⟩
  · exact ⟨s, _, _, .unchanged _ s, rfl⟩

theorem execFbrd_answers (idx : Ptr) (s : State) : Answers (.fbrd idx) s (execFbrd idx s) := by
  unfold execFbrd
  split
  · exact ⟨s, _, _, .unchanged _ s, rfl⟩
  · exact ⟨s, _, _, .unchanged _ s, rfl⟩

theorem execImpbmp_answers (xpos ypos thr : Byte) (addr : Ptr) (s : State) :
    Answers (.impbmp xpos ypos thr addr) s (execImpbmp xpos ypos thr addr s) :=
  finish_answers fun u hu => by
    cases ok_of_ite (ok_of_ite (ok_of_ite hu))
    exact .impbmp xpos ypos thr addr s _

theorem execSetwin_answers (x y w h : Byte) (s : State) : Answers (.setwin x y w h) s (execSetwin x y w h s) :=
  finish_answers fun u hu => by
    obtain ⟨hok, rfl⟩ := setWindow_ok hu
    exact .setwin x y w h s hok

theorem execStreamHmem_answers (addr : Ptr) (s : State) : Answers (.streamHmem addr) s (execStreamHmem addr s) :=
  finish_answers fun u hu => by
    cases ok_of_ite (ok_of_ite hu)
    exact .streamHmem addr s _

theorem execPutchar_answers (code : Byte) (s : State) : Answers (.putchar code) s (execPutchar code s) :=
  finish_answers fun u hu => by
    obtain h | h | ⟨-, h⟩ := putChar_cases Config.chip code s <;> rw [h] at hu <;> cases hu
    exact .putchar code s

theorem execPutstr_answers (addr : Ptr) (s : State) : Answers (.putstr addr) s (execPutstr addr s) := by
  obtain ⟨u, hdraw, h⟩ := putStrLoop_cases Config.chip (DrawsText s)
    (fun code _ ht _ => ht.tail ⟨code, rfl⟩) (65536 - addr.toNat) addr.toNat s .refl
  have answer {e d} (he : putStrLoop Config.chip (65536 - addr.toNat) addr.toNat s = answered u e d) :
      Answers (.putstr addr) s (execPutstr addr s) := ⟨u, e, d, .putstr addr hdraw, congrArg _ he⟩
  obtain h | h | h | h := h <;> exact answer h

theorem execDrawfull_answers (addr : Ptr) (s : State) : Answers (.drawfull addr) s (execDrawfull addr s) := by
  unfold execDrawfull drawfullOp
  refine finish_answers fun u hu => ?_
  rw [flush_eq] at hu
  obtain rfl := Except.ok.inj (ok_of_ite hu)
  exact .drawfull addr s _

/-- STREAM FB answers, but where the window asks for more bytes than FB has (log 11). -/
theorem execStreamFb_cases (s : State) : Answers .streamFb s (execStreamFb s) ∨
    (execStreamFb s = .fault .sourceBeyondFramebuffer ∧ streamDomainOk s.winW.toNat s.winH.toNat = true ∧
      504 < srcLen s.winW.toNat s.winH.toNat) := by
  by_cases hdom : streamDomainOk s.winW.toNat s.winH.toNat = true
  · by_cases hlen : 504 < srcLen s.winW.toNat s.winH.toNat
    · exact .inr ⟨by simp [execStreamFb, hdom, hlen], hdom, hlen⟩
    · refine .inl ⟨_, .ok, 0, .streamFb s, ?_⟩
      simp only [execStreamFb, hdom, hlen, not_true, if_false]
      rfl
  · refine .inl ⟨s, .geometryError, 0, .unchanged _ s, ?_⟩
    simp only [execStreamFb, hdom]
    rfl

/-- Everything an operation can do (R100): it answers, or it is STREAM FB in a window beyond FB, and stops. -/
theorem exec_cases (i : Instr) (s : State) : Answers i s (exec i s) ∨
    (i = .streamFb ∧ exec i s = .fault .sourceBeyondFramebuffer ∧ streamDomainOk s.winW.toNat s.winH.toNat = true ∧
      504 < srcLen s.winW.toNat s.winH.toNat) := by
  cases i with
  | pxset x y v => exact .inl (writePixel_answers _ _ _ fun fb => .pxset x y v s fb)
  | pxclr x y => exact .inl (writePixel_answers _ _ _ fun fb => .pxclr x y s fb)
  | pxget x y => exact .inl (execPxget_answers x y s)
  | fbwr val idx => exact .inl (execFbwr_answers val idx s)
  | fbrd idx => exact .inl (execFbrd_answers idx s)
  | setwin x y w h => exact .inl (execSetwin_answers x y w h s)
  | rstwin =>
    refine .inl ⟨_, .ok, 0, .rstwin s, ?_⟩
    show rstwinOp Config.chip s = _
    rw [rstwinOp, resetWindow_eq]
    rfl
  | streamNone => exact .inl ⟨_, .ok, 0, .streamNone s, rfl⟩
  | streamFb => exact (execStreamFb_cases s).imp_right fun h => ⟨rfl, h⟩
  | streamHmem addr => exact .inl (execStreamHmem_answers addr s)
  | putchar code => exact .inl (execPutchar_answers code s)
  | putstr addr => exact .inl (execPutstr_answers addr s)
  | setcur cx cy => exact .inl ⟨_, .ok, 0, .setcur cx cy s, rfl⟩
  | clear =>
    refine .inl ⟨_, .ok, 0, .clear s, ?_⟩
    show clearOp Config.chip s = _
    rw [clearOp, resetWindow_eq]
    rfl
  | impbmp xpos ypos thr addr => exact .inl (execImpbmp_answers xpos ypos thr addr s)
  | init => exact .inl ⟨_, .ok, 0, .init s, rfl⟩
  | drawfull addr => exact .inl (execDrawfull_answers addr s)
  | dispbuf =>
    refine .inl ⟨_, .ok, 0, .dispbuf s (streamItems (some s.fb.toList) 84 48), ?_⟩
    show dispbufOp Config.chip s = _
    rw [dispbufOp, flush_eq]
    rfl

/-- Where an operation answers the state `t`, `t` is a state it performs to, with one response added (R45, R106). -/
theorem exec_next {i : Instr} {s t : State} (h : exec i s = .next t) :
    ∃ u e d, Performs i s u ∧ t = answered u e d := by
  obtain ⟨u, e, d, hp, hu⟩ | ⟨-, hf, -⟩ := exec_cases i s
  · rw [h] at hu
    exact ⟨u, e, d, hp, Host.Outcome.next.inj hu⟩
  · rw [h] at hf
    cases hf

end Sys2Proof.Machine
end

section
/-! SUPPORT. Which pieces of state an operation writes (R21, R24, R30). -/

namespace Sys2Proof.Machine

variable {i : Instr} {s u : State}

/-- No operation writes HMEM, the host's moves or the reset count, and none answers before it ends. -/
theorem Performs.frame (h : Performs i s u) :
    u.hmem = s.hmem ∧ u.host = s.host ∧ u.resets = s.resets ∧ u.responses = s.responses := by
  cases h with
  | putstr addr hdraw =>
    obtain ⟨-, -, -, hr, hm, hh, hn⟩ := hdraw.frame
    exact ⟨hm, hh, hn, hr⟩
  | drawfull | dispbuf => simp [State.homeCursorIf_eq]
  | _ => simp

/-- The writers of FB (R21). -/
theorem Performs.fb_writers (h : Performs i s u) : u.fb = s.fb ∨ (∃ x y v, i = .pxset x y v) ∨
    (∃ x y, i = .pxclr x y) ∨ (∃ v k, i = .fbwr v k) ∨ ∃ x y h a, i = .impbmp x y h a := by
  cases h with
  | putstr addr hdraw => exact .inl hdraw.frame.1
  | drawfull | dispbuf => simp [State.homeCursorIf_eq]
  | _ => simp

/-- The writers of the cursor (R14, R15); DRAWFULL and DISPBUF are where the open parameter says so (R97, R98). -/
theorem Performs.cursor_writers (h : Performs i s u) : (u.curX = s.curX ∧ u.curY = s.curY) ∨
    (∃ c, i = .putchar c) ∨ (∃ a, i = .putstr a) ∨ (∃ x y, i = .setcur x y) ∨ i = .clear ∨ i = .rstwin ∨ i = .init ∨
    (Config.chip.drawfullResetsCursor = true ∧ (i = .dispbuf ∨ ∃ a, i = .drawfull a)) := by
  cases h with
  | drawfull | dispbuf => cases Config.chip.drawfullResetsCursor <;> simp [State.homeCursorIf_eq]
  | _ => simp

/-- The writers of the window registers (R16, R17); a text restores what it narrows (R77). -/
theorem Performs.window_writers (h : Performs i s u) : (u.winW = s.winW ∧ u.winH = s.winH) ∨
    (∃ x y w h, i = .setwin x y w h) ∨ i = .rstwin ∨ i = .clear ∨ i = .init ∨ i = .dispbuf ∨ ∃ a, i = .drawfull a := by
  cases h with
  | putstr addr hdraw =>
    obtain ⟨-, hw, hh, -⟩ := hdraw.frame
    exact .inl ⟨hw, hh⟩
  | _ => simp

/-- The senders (R23). -/
theorem Performs.tx_writers (h : Performs i s u) : u.tx = s.tx ∨ (∃ x y w h, i = .setwin x y w h) ∨ i = .rstwin ∨
    i = .streamNone ∨ i = .streamFb ∨ (∃ a, i = .streamHmem a) ∨ (∃ c, i = .putchar c) ∨ (∃ a, i = .putstr a) ∨
    i = .clear ∨ i = .init ∨ (∃ a, i = .drawfull a) ∨ i = .dispbuf := by
  cases h <;> simp

end Sys2Proof.Machine
end

section
/-! SUPPORT. I1 to I4 of R18, and the canonical form of HMEM, under every move. -/

namespace Sys2Proof.Machine

variable {s : State}

/-- A cell position that fits the screen is on the grid of its cells (R80). -/
theorem cellPosition_getD_ok {size extent old : Nat} (cell : Nat) (hold : old % size = 0 ∧ old + size ≤ extent) :
    (cellPosition cell size extent).getD old % size = 0 ∧
    (cellPosition cell size extent).getD old + size ≤ extent := by
  unfold cellPosition
  split
  · rename_i hfit
    exact ⟨Nat.mul_mod_left .., hfit⟩
  · exact hold

theorem inv_setFb (h : Inv s) (fb : Framebuffer) : Inv (s.setFb fb) := h

theorem inv_send (h : Inv s) (items : List TxItem) : Inv (s.send items) := h

theorem inv_answered (h : Inv s) (e : Status) (d : Byte) : Inv (answered s e d) := h

/-- Window registers that SetWindow may write (R62). -/
theorem inv_setWindowSize (h : Inv s) {x y w k : Nat} (hok : WindowAccepted x y w k) : Inv (s.setWindowSize w k) := by
  obtain ⟨hx, hy, -, -, hm⟩ := h
  refine ⟨hx, hy, ?_, ?_, hm⟩
  · simp only [WindowWidthOk, State.setWindowSize_winW, BitVec.toNat_ofNat]; omega
  · simp only [WindowHeightOk, State.setWindowSize_winH, BitVec.toNat_ofNat]; omega

theorem inv_setCursor (h : Inv s) {x y : Nat} (hx : x % 6 = 0 ∧ x + 6 ≤ 84) (hy : y % 8 = 0 ∧ y + 8 ≤ 48) :
    Inv (s.setCursor x y) := by
  obtain ⟨-, -, hw, hh, hm⟩ := h
  have hx8 : (BitVec.ofNat 8 x).toNat = x := Nat.mod_eq_of_lt (by omega)
  have hy8 : (BitVec.ofNat 8 y).toNat = y := Nat.mod_eq_of_lt (by omega)
  refine ⟨?_, ?_, hw, hh, hm⟩
  · rwa [CursorColumnOk, State.setCursor_curX, hx8]
  · rwa [CursorRowOk, State.setCursor_curY, hy8]

theorem inv_homeCursorIf (h : Inv s) (b : Bool) : Inv (s.homeCursorIf b) := by
  obtain ⟨hx, hy, -⟩ := id h
  cases b with
  | false => exact inv_setCursor h hx hy
  | true => exact inv_setCursor (x := 0) (y := 0) h (by decide) (by decide)

/-- The default window (R63), whatever is sent with it. -/
theorem inv_defaultWindow (h : Inv s) (items : List TxItem) : Inv ((s.send items).setWindowSize 84 48) :=
  inv_setWindowSize (x := 0) (y := 0) (inv_send h items) (by decide)

theorem DrawsText.inv {t : State} (h : DrawsText s t) (hs : Inv s) : Inv t := by
  induction h with
  | refl => exact hs
  | tail _ hdraw ih =>
    obtain ⟨code, rfl⟩ := hdraw
    exact drawn_inv _ code ih

/-- Every operation keeps the invariant (R18). -/
theorem Performs.inv {i : Instr} {u : State} (hp : Performs i s u) (h : Inv s) : Inv u := by
  have homed (items) : Inv (((s.send items).setWindowSize 84 48).setCursor 0 0) :=
    inv_setCursor (inv_defaultWindow h items) (by decide) (by decide)
  cases hp with
  | unchanged => exact h
  | pxset | pxclr | fbwr | impbmp => exact inv_setFb h _
  | setwin x y w k _ hok => exact inv_setWindowSize (inv_send h _) hok
  | rstwin | init => exact homed _
  | streamNone | streamFb | streamHmem => exact inv_send h _
  | putchar code => exact drawn_inv _ code h
  | putstr addr hdraw => exact hdraw.inv h
  | setcur cx cy =>
    exact inv_setCursor h (cellPosition_getD_ok cx.toNat h.1) (cellPosition_getD_ok cy.toNat h.2.1)
  | clear => exact inv_send (homed _) _
  | drawfull | dispbuf => exact inv_send (inv_homeCursorIf (inv_defaultWindow h _) _) _

theorem exec_inv {i : Instr} {t : State} (h : Inv s) (ht : exec i s = .next t) : Inv t := by
  obtain ⟨u, e, d, hp, rfl⟩ := exec_next ht
  exact inv_answered (hp.inv h) e d

/-- Under I3 and I4 a stream of FB stays inside FB (R71). -/
theorem srcLen_le {w h : Nat} (hw : w ≤ 84) (hh : h ≤ 48) (hdom : streamDomainOk w h = true) : srcLen w h ≤ 504 := by
  have hdom : w = 84 ∨ h ≤ 8 := by simpa [streamDomainOk] using hdom
  have hbands : srcLen w h ≤ w * 6 := Nat.mul_le_mul_left w (by omega)
  omega

/-- Under the invariant every operation answers (R100). -/
theorem exec_answers_of_inv (i : Instr) (h : Inv s) : Answers i s (exec i s) := by
  obtain ⟨-, -, hw, hh, -⟩ := h
  refine (exec_cases i s).resolve_right fun ⟨_, _, hdom, hlen⟩ => ?_
  have := srcLen_le hw.2.2 hh.2 hdom
  omega

/-- An illegal word is answered, and nothing else (R44). -/
theorem acceptRequest_illegal {w : Request} {why : Illegal} (hw : decode w = .illegal why) :
    acceptRequest w s = .next (s.raise .illegalRequest) := by
  simp [acceptRequest, hw]

theorem acceptRequest_legal {w : Request} {i : Instr} (hw : decode w = .legal i) : acceptRequest w s = exec i s := by
  simp [acceptRequest, hw]

/-- Under the invariant every request, legal or not, is answered with one response, and the invariant kept (R100). -/
theorem acceptRequest_answers (w : Request) (h : Inv s) :
    ∃ t, acceptRequest w s = .next t ∧ Inv t ∧ t.host = s.host ∧ t.responses.length = s.responses.length + 1 := by
  cases hw : decode w with
  | illegal why => exact ⟨_, acceptRequest_illegal hw, h, rfl, by simp⟩
  | legal i =>
    obtain ⟨u, e, d, hp, hu⟩ := exec_answers_of_inv i h
    obtain ⟨-, hhost, -, hresp⟩ := hp.frame
    exact ⟨_, (acceptRequest_legal hw).trans hu, hp.inv h, hhost, by simp [hresp]⟩

theorem inv_hostWrite (h : Inv s) (a : Ptr) (v : Byte) : Inv (s.hostWrite a v) := by
  obtain ⟨hx, hy, hw, hh, hm⟩ := h
  exact ⟨hx, hy, hw, hh, Memory.wf_write hm a v⟩

/-- The registers after reset are those of R26 and R27, and HMEM lists nothing. -/
theorem inv_reset : Inv State.reset := by
  refine ⟨by decide, by decide, ?_, ?_, reset_hmem_wf⟩
  · simp [WindowWidthOk]
  · simp [WindowHeightOk]

/-- A reset of the running block gives the register values of R26 and R27 and leaves HMEM to the host (R29). -/
theorem inv_resetBlock (hm : s.hmem.wf = true) : Inv s.resetBlock := by
  obtain ⟨hx, hy, hw, hh, -⟩ := inv_reset
  exact ⟨hx, hy, hw, hh, by rwa [State.resetBlock_hmem]⟩

theorem takeMove_inv {m : HostMove} {t : State} (h : Inv s) (ht : takeMove m s = .next t) : Inv t := by
  cases m with
  | request w =>
    obtain ⟨u, hu, hinv, -⟩ := acceptRequest_answers w h
    rw [takeMove, hu] at ht
    exact Host.Outcome.next.inj ht ▸ hinv
  | hmemWrite a v => exact Host.Outcome.next.inj ht ▸ inv_hostWrite h a v
  | reset => exact Host.Outcome.next.inj ht ▸ inv_resetBlock h.2.2.2.2

/-! ### The step -/

theorem step_idle (h : s.host = []) : step s = .next s := by simp [step, takeNext, h]

theorem step_move {m : HostMove} {rest : List HostMove} (h : s.host = m :: rest) :
    step s = takeMove m { s with host := rest } := by
  simp [step, takeNext, h]

theorem step_request {w : Request} {rest : List HostMove} (h : s.host = .request w :: rest) :
    step s = acceptRequest w { s with host := rest } := step_move h

theorem step_inv {t : State} (h : Inv s) (ht : step s = .next t) : Inv t := by
  cases hhost : s.host with
  | nil => exact Host.Outcome.next.inj ((step_idle hhost).symm.trans ht) ▸ h
  | cons m rest => exact takeMove_inv (s := { s with host := rest }) h ((step_move hhost).symm.trans ht)

/-- A run whose first step answers goes on from there, on any machine. -/
theorem run_succ_of_next {M : Host.Core} {s t : M.State} (n : Nat) (h : M.step s = .next t) :
    M.run (n + 1) s = M.run n t := by
  rw [Host.Core.run, h]

end Sys2Proof.Machine
end

section
/-! The statements about the invariant, the step and the writers of each piece of state. -/

namespace Sys2Proof.Machine

/-- Settles O37: every operation keeps the invariant, and so do a write of the host and a reset. -/
theorem everyStepKeepsTheInvariant : Obligations.EveryStepKeepsTheInvariant := fun _ _ => step_inv

/-- Settles O41, by induction on the list of requests: each is answered, whatever it is, and leaves the rest. -/
theorem everyRequestListRunsToItsEnd : Obligations.EveryRequestListRunsToItsEnd := by
  intro ws
  induction ws with
  | nil => exact fun s h hhost => ⟨s, rfl, hhost, h, rfl⟩
  | cons w ws ih =>
    intro s h hhost
    obtain ⟨u, hu, hinv, huhost, (hulen : _ = s.responses.length + 1)⟩ :=
      acceptRequest_answers (s := { s with host := ws.map .request }) w h
    obtain ⟨t, ht, hthost, htinv, htlen⟩ := ih u hinv huhost
    refine ⟨t, (run_succ_of_next (M := core) _ ((step_request hhost).trans hu)).trans ht, hthost, htinv, ?_⟩
    rw [htlen, hulen, List.length_cons]
    omega

/-- Settles O44: one frame lemma for each piece of state. -/
theorem onlyTheListedOperationsWrite : Obligations.OnlyTheListedOperationsWrite := by
  intro i s t ht
  obtain ⟨u, e, d, hp, rfl⟩ := exec_next ht
  obtain ⟨hhmem, hhost, hresets, -⟩ := hp.frame
  exact ⟨hhmem, hhost, hresets, hp.fb_writers, hp.cursor_writers, hp.window_writers, hp.tx_writers⟩

/-- Settles O7: the step takes the first move, and a legal word of it is performed. -/
theorem stepPerformsTheDecodedRequest : Obligations.StepPerformsTheDecodedRequest := by
  refine ⟨fun s w rest i hhost hw => (step_request hhost).trans (acceptRequest_legal hw), fun s n i hn hw => ?_⟩
  have hword : n % 2 ^ 48 = n := Nat.mod_eq_of_lt hn
  rw [step_request (s := s.withFetchWord 48 n) rfl, hword]
  exact acceptRequest_legal hw

/-- Settles O9, from the values of `State.reset`. -/
theorem resetRegisterValues : Obligations.ResetRegisterValues :=
  ⟨rfl, rfl, by simp, by simp, rfl⟩

/-- Settles O38, from the values of `State.reset`. -/
theorem resetMeetsTheInvariant : Obligations.ResetMeetsTheInvariant := inv_reset

end Sys2Proof.Machine
end

section
/-! SUPPORT. What was sent and answered before never matters (R23, R106): every operation commutes with putting an
earlier history in front. -/

namespace Sys2Proof.Machine

/-- The state with `tx` and `rs` put in front of what was sent and answered so far. -/
def State.after (s : State) (tx : List TxItem) (rs : List Response) : State :=
  { s with tx := tx ++ s.tx, responses := rs ++ s.responses }

/-- The same of an outcome: only a next state has a history. -/
def outcomeAfter (tx : List TxItem) (rs : List Response) :
    Host.Outcome State Fault Refusal → Host.Outcome State Fault Refusal
  | .next s => .next (s.after tx rs)
  | .fault r => .fault r
  | .refused r => .refused r

section After

variable (s : State) (tx : List TxItem) (rs : List Response)

@[simp] theorem after_fb : (s.after tx rs).fb = s.fb := rfl
@[simp] theorem after_curX : (s.after tx rs).curX = s.curX := rfl
@[simp] theorem after_curY : (s.after tx rs).curY = s.curY := rfl
@[simp] theorem after_winW : (s.after tx rs).winW = s.winW := rfl
@[simp] theorem after_winH : (s.after tx rs).winH = s.winH := rfl
@[simp] theorem after_hmem : (s.after tx rs).hmem = s.hmem := rfl
@[simp] theorem after_setFb (fb : Framebuffer) : (s.after tx rs).setFb fb = (s.setFb fb).after tx rs := rfl
@[simp] theorem after_setCursor (x y : Nat) :
    (s.after tx rs).setCursor x y = (s.setCursor x y).after tx rs := rfl
@[simp] theorem after_setWindowSize (w h : Nat) :
    (s.after tx rs).setWindowSize w h = (s.setWindowSize w h).after tx rs := rfl
@[simp] theorem after_homeCursorIf (b : Bool) :
    (s.after tx rs).homeCursorIf b = (s.homeCursorIf b).after tx rs := rfl
@[simp] theorem after_hmemBytes (addr n : Nat) : hmemBytes (s.after tx rs) addr n = hmemBytes s addr n := rfl
@[simp] theorem outcomeAfter_next : outcomeAfter tx rs (.next s) = .next (s.after tx rs) := rfl

@[simp] theorem after_send (items : List TxItem) : (s.after tx rs).send items = (s.send items).after tx rs := by
  simp [State.after, State.send]

@[simp] theorem after_respond (d : Byte) : (s.after tx rs).respond d = (s.respond d).after tx rs := by
  simp [State.after, State.respond]

@[simp] theorem after_raise (e : Status) : (s.after tx rs).raise e = (s.raise e).after tx rs := by
  simp [State.after, State.raise]

/-- An operation that ends in `finish` commutes with the history if its attempt does. -/
theorem finish_after (f : State → Attempt) (h : f (s.after tx rs) = (f s).map (·.after tx rs)) :
    finish (s.after tx rs) (f (s.after tx rs)) = outcomeAfter tx rs (finish s (f s)) := by
  rw [h]
  cases f s <;> simp [Except.map]

/-! ### The procedures that may raise -/

theorem setWindow_after (c : Config) (x y w h : Nat) :
    setWindow c x y w h (s.after tx rs) = (setWindow c x y w h s).map (·.after tx rs) := by
  by_cases hok : WindowAccepted x y w h
  · rw [setWindow_accepted c hok, setWindow_accepted c hok, after_send, after_setWindowSize]
    rfl
  · rw [setWindow_refused c hok, setWindow_refused c hok]
    rfl

theorem resetWindow_after (c : Config) : resetWindow c (s.after tx rs) = (resetWindow c s).map (·.after tx rs) := by
  rw [resetWindow_eq, resetWindow_eq, after_send, after_setWindowSize, after_setCursor]
  rfl

theorem flush_after (c : Config) (bytes : List Byte) :
    flush c bytes (s.after tx rs) = (flush c bytes s).map (·.after tx rs) := by
  rw [flush_eq, flush_eq, after_send, after_setWindowSize, after_homeCursorIf, after_send]
  rfl

theorem importBitmap_after (xpos ypos thr addr : Nat) :
    importBitmap xpos ypos thr addr (s.after tx rs) = (importBitmap xpos ypos thr addr s).map (·.after tx rs) := by
  unfold importBitmap
  dsimp only [after_hmem, after_fb, after_setFb]
  split
  · rfl
  · split
    · rfl
    · split <;> rfl

theorem putChar_after (c : Config) (code : Byte) :
    putChar c code (s.after tx rs) = (putChar c code s).map (·.after tx rs) := by
  unfold putChar
  cases glyphIndex code with
  | none => rfl
  | some g =>
    rw [after_curX, after_curY, setWindow_after]
    cases setWindow c s.curX.toNat s.curY.toNat 6 8 s with
    | error e => rfl
    | ok u => simp [Except.map]

theorem putStrLoop_after (c : Config) (n q : Nat) :
    putStrLoop c n q (s.after tx rs) = (putStrLoop c n q s).after tx rs := by
  induction n generalizing q s with
  | zero => exact after_raise s tx rs .addressError
  | succ n ih =>
    rw [putStrLoop_succ, putStrLoop_succ, after_hmem, putChar_after]
    by_cases hend : s.hmem.read q = 0
    · rw [if_pos hend, if_pos hend, after_respond]
    · rw [if_neg hend, if_neg hend]
      cases putChar c (s.hmem.read q) s with
      | error e => exact after_raise s tx rs e
      | ok u => exact ih u (q + 1)

/-! ### The operations -/

theorem writePixel_after (x y : Nat) (v : Bool) :
    writePixel x y v (s.after tx rs) = outcomeAfter tx rs (writePixel x y v s) :=
  finish_after s tx rs (fun s => if pixelInRange x y then .ok (s.setFb (fbWriteBit s.fb x y v)) else _)
    (by split <;> rfl)

theorem execPxget_after (x y : Byte) : execPxget x y (s.after tx rs) = outcomeAfter tx rs (execPxget x y s) := by
  unfold execPxget
  split <;> simp

theorem execFbrd_after (idx : Ptr) : execFbrd idx (s.after tx rs) = outcomeAfter tx rs (execFbrd idx s) := by
  unfold execFbrd
  split <;> simp

theorem streamWindow_after (src : Source) :
    (.ok (streamWindow src (s.after tx rs)) : Attempt) =
      Except.map (·.after tx rs) (.ok (streamWindow src s)) := by
  simp [Except.map]

theorem execStreamFb_after : execStreamFb (s.after tx rs) = outcomeAfter tx rs (execStreamFb s) := by
  unfold execStreamFb
  rw [after_winW, after_winH, after_fb]
  by_cases hdom : streamDomainOk s.winW.toNat s.winH.toNat = true
  · rw [if_neg (not_not_intro hdom), if_neg (not_not_intro hdom)]
    by_cases hlen : 504 < srcLen s.winW.toNat s.winH.toNat
    · rw [if_pos hlen, if_pos hlen]
      rfl
    · rw [if_neg hlen, if_neg hlen]
      exact finish_after s tx rs (fun t => .ok (streamWindow (some s.fb.toList) t)) (streamWindow_after s tx rs _)
  · rw [if_pos hdom, if_pos hdom]
    exact finish_after s tx rs (fun _ => .error .geometryError) rfl

theorem execStreamHmem_after (addr : Ptr) :
    execStreamHmem addr (s.after tx rs) = outcomeAfter tx rs (execStreamHmem addr s) := by
  refine finish_after s tx rs (fun s => if ¬ streamDomainOk s.winW.toNat s.winH.toNat then _
    else if 65536 < addr.toNat + srcLen s.winW.toNat s.winH.toNat then _
    else .ok (streamWindow (some (hmemBytes s addr.toNat (srcLen s.winW.toNat s.winH.toNat))) s)) ?_
  rw [after_winW, after_winH, after_hmemBytes, streamWindow_after]
  split
  · rfl
  · split <;> rfl

theorem drawfullOp_after (c : Config) (addr : Ptr) :
    drawfullOp c addr (s.after tx rs) = outcomeAfter tx rs (drawfullOp c addr s) := by
  unfold drawfullOp
  refine finish_after s tx rs (fun s => if 65536 < addr.toNat + 504 then _
    else flush c (hmemBytes s addr.toNat 504) s) ?_
  rw [after_hmemBytes, flush_after]
  split <;> rfl

theorem dispbufOp_after (c : Config) : dispbufOp c (s.after tx rs) = outcomeAfter tx rs (dispbufOp c s) := by
  unfold dispbufOp
  exact finish_after s tx rs (fun s => flush c s.fb.toList s) (flush_after s tx rs c _)

/-- No operation reads the history it adds to. -/
theorem exec_after (i : Instr) : exec i (s.after tx rs) = outcomeAfter tx rs (exec i s) := by
  cases i with
  | pxset x y v => exact writePixel_after s tx rs _ _ _
  | pxclr x y => exact writePixel_after s tx rs _ _ _
  | pxget x y => exact execPxget_after s tx rs x y
  | fbwr val idx =>
    exact finish_after s tx rs
      (fun s => if 504 ≤ idx.toNat then _ else .ok (s.setFb (fbWriteByte s.fb idx.toNat val))) (by split <;> rfl)
  | fbrd idx => exact execFbrd_after s tx rs idx
  | setwin x y w h => exact finish_after s tx rs (setWindow _ _ _ _ _) (setWindow_after s tx rs ..)
  | rstwin => exact finish_after s tx rs (resetWindow _) (resetWindow_after s tx rs _)
  | streamNone => exact finish_after s tx rs (.ok <| streamWindow none ·) (streamWindow_after s tx rs none)
  | streamFb => exact execStreamFb_after s tx rs
  | streamHmem addr => exact execStreamHmem_after s tx rs addr
  | putchar code => exact finish_after s tx rs (putChar _ code) (putChar_after s tx rs _ code)
  | putstr addr => exact congrArg _ (putStrLoop_after s tx rs ..)
  | setcur cx cy => exact finish_after s tx rs (fun s => .ok (s.setCursor _ _)) rfl
  | clear =>
    refine finish_after s tx rs (fun s => (resetWindow _ s).map (streamWindow none)) ?_
    rw [resetWindow_after, resetWindow_eq]
    exact streamWindow_after _ tx rs none
  | impbmp xpos ypos thr addr =>
    exact finish_after s tx rs (importBitmap _ _ _ _) (importBitmap_after s tx rs ..)
  | init =>
    refine finish_after s tx rs (fun s => .ok (((s.send _).setWindowSize 84 48).setCursor 0 0)) ?_
    rw [after_send]
    rfl
  | drawfull addr => exact drawfullOp_after s tx rs Config.chip addr
  | dispbuf => exact dispbufOp_after s tx rs Config.chip

end After

/-- An outcome with a history in front is a next state only where the outcome itself is one. -/
theorem outcomeAfter_eq_next {tx : List TxItem} {rs : List Response} {o : Host.Outcome State Fault Refusal} {t : State}
    (h : outcomeAfter tx rs o = .next t) : ∃ u, o = .next u ∧ t = u.after tx rs := by
  cases o with
  | next u => exact ⟨u, rfl, (Host.Outcome.next.inj h).symm⟩
  | fault r => cases h
  | refused r => cases h

/-- Settles O45: what the operation adds is what it sends and answers where nothing was sent or answered before. -/
theorem historyIsNeverRead : Obligations.HistoryIsNeverRead := by
  intro i s t ht
  have hfrom (tx responses) : exec i { s with tx := tx, responses := responses } =
      outcomeAfter tx responses (exec i { s with tx := [], responses := [] }) := by
    rw [← exec_after]
    simp [State.after]
  obtain ⟨u, hu, rfl⟩ := outcomeAfter_eq_next ((hfrom s.tx s.responses).symm.trans ht)
  refine ⟨u.tx, u.responses, fun tx responses => ?_⟩
  rw [hfrom, hu]
  rfl

end Sys2Proof.Machine
end

section
/-! SUPPORT. What the reference receiver makes of a window packet and of the pixel stream behind it (R60, R61, R68,
R72; 95_test_vectors.md section 4). -/

namespace Sys2Proof.Machine

/-! ### The receiver, run by run -/

@[simp] theorem Panel.receive_nil (c : Config) (p : Panel) : p.receive c [] = p := rfl

@[simp] theorem Panel.receive_cons (c : Config) (p : Panel) (i : TxItem) (items : List TxItem) :
    p.receive c (i :: items) = (p.item c i).receive c items := rfl

@[simp] theorem Panel.receive_append (c : Config) (p : Panel) (items items' : List TxItem) :
    p.receive c (items ++ items') = (p.receive c items).receive c items' := List.foldl_append

/-- The two bytes of a bound, put into the halves of any old value, give the bound (R32). -/
theorem withLow_withHigh {v : Nat} (old : Nat) (hv : v < 65536) :
    withLow (withHigh old (BitVec.ofNat 8 (v / 256))) (BitVec.ofNat 8 (v % 256)) = v := by
  simp only [withLow, withHigh, BitVec.toNat_ofNat]
  omega

/-- The four column bytes set the column bounds. -/
theorem Panel.receive_columnBounds (c : Config) {p : Panel} (hp : p.mode = .caset 0) {v v' : Nat} (hv : v < 65536)
    (hv' : v' < 65536) :
    p.receive c (bound v ++ bound v') = { p with xs := v, xe := v', mode := .caset 4 } := by
  simp [bound, dataItems, Panel.item, hp, Panel.columnByte, withLow_withHigh, hv, hv']

/-- The four row bytes set the row bounds. -/
theorem Panel.receive_rowBounds (c : Config) {p : Panel} (hp : p.mode = .raset 0) {v v' : Nat} (hv : v < 65536)
    (hv' : v' < 65536) :
    p.receive c (bound v ++ bound v') = { p with ys := v, ye := v', mode := .raset 4 } := by
  simp [bound, dataItems, Panel.item, hp, Panel.rowByte, withLow_withHigh, hv, hv']

/-- A receiver that addresses the `w` by `h` window at `(x, y)` and expects pixels. -/
structure Panel.Addresses (p : Panel) (x y w h : Nat) : Prop where
  xs : p.xs = x
  xe : p.xe = x + w - 1
  ys : p.ys = y
  ye : p.ye = y + h - 1
  mode : p.mode = .ramwr []

theorem Panel.item_caset (c : Config) (p : Panel) : p.item c ⟨.command, c.cmdCaset⟩ = { p with mode := .caset 0 } := by
  simp [Panel.item]

theorem Panel.item_raset {c : Config} (hc : commandsDiffer c) (p : Panel) :
    p.item c ⟨.command, c.cmdRaset⟩ = { p with mode := .raset 0 } := by
  simp [Panel.item, hc.1.symm]

theorem Panel.item_ramwr {c : Config} (hc : commandsDiffer c) (p : Panel) :
    p.item c ⟨.command, c.cmdRamwr⟩ = { p with mode := .ramwr [], col := p.xs, row := p.ys } := by
  simp [Panel.item, hc.2.1.symm, hc.2.2.symm]

/-- After a window packet of the screen the receiver is at the first pixel of that window, whatever it was at before. -/
theorem Panel.receive_packet {c : Config} (hc : commandsDiffer c) (p : Panel) {x y w h : Nat} (hw : 0 < w) (hh : 0 < h)
    (hx : x + w ≤ 84) (hy : y + h ≤ 48) :
    (p.receive c (packet c x y w h)).Addresses (x + c.xOfs) (y + c.yOfs) w h ∧
    (p.receive c (packet c x y w h)).col = x + c.xOfs ∧ (p.receive c (packet c x y w h)).row = y + c.yOfs := by
  have hxOfs := c.xOfs.isLt
  have hyOfs := c.yOfs.isLt
  rw [packet, receive_cons, item_caset, receive_append, receive_columnBounds c rfl (by omega) (by omega), receive_cons,
    item_raset hc, receive_append, receive_rowBounds c rfl (by omega) (by omega), receive_cons, item_ramwr hc,
    receive_nil]
  refine ⟨⟨rfl, ?_, rfl, ?_, rfl⟩, rfl, rfl⟩
  · show x + w - 1 + c.xOfs = x + c.xOfs + w - 1
    omega
  · show y + h - 1 + c.yOfs = y + c.yOfs + h - 1
    omega

/-! ### A stream fills the window, row by row -/

/-- From one pixel to the next in the order of R68: to the right, and after the last column to the next row. -/
theorem raster_succ (n : Nat) {w : Nat} (hw : 0 < w) :
    ((n + 1) % w, (n + 1) / w) = if w < n % w + 2 then (0, n / w + 1) else (n % w + 1, n / w) := by
  have hlt := Nat.mod_lt n hw
  have hn : n + 1 = n % w + 1 + w * (n / w) := by rw [Nat.add_right_comm, Nat.mod_add_div]
  split
  · have hlast : n % w + 1 = w := by omega
    rw [hn, hlast]
    simp [Nat.add_mul_div_left _ _ hw, Nat.div_self hw, Nat.add_comm]
  · rw [hn, Nat.add_mul_mod_self_left, Nat.mod_eq_of_lt (by omega), Nat.add_mul_div_left _ _ hw,
      Nat.div_eq_of_lt (by omega), Nat.zero_add]

/-- A pixel number is determined by its column and row. -/
theorem raster_injective {j k w : Nat} (hmod : j % w = k % w) (hdiv : j / w = k / w) : j = k := by
  rw [← Nat.mod_add_div j w, hmod, hdiv, Nat.mod_add_div]

/-- What a pixel put at the receiver's position shows. -/
theorem Panel.pixel_put (p : Panel) (v : Colour) (col row : Nat) :
    (p.put v).pixel col row = if (col, row) = (p.col, p.row) then some v else p.pixel col row := by
  simp only [Panel.pixel, Panel.put, List.lookup_cons]
  by_cases hpos : (col, row) = (p.col, p.row)
  · simp [hpos]
  · rw [if_neg hpos, beq_false_of_ne hpos]

/-- The receiver addresses a `w` by `h` window at `(x, y)`, shows its first `n` pixels in the colours `f`, and is at the
next one. -/
structure Panel.FilledTo (p : Panel) (x y w h : Nat) (f : Nat → Colour) (n : Nat) : Prop where
  addresses : p.Addresses x y w h
  position : n < w * h → p.col = x + n % w ∧ p.row = y + n / w
  shown : ∀ k < n, p.pixel (x + k % w) (y + k / w) = some (f k)

theorem Panel.FilledTo.put {p : Panel} {x y w h n : Nat} {f : Nat → Colour} (hp : p.FilledTo x y w h f n)
    (hn : n < w * h) : (p.put (f n)).FilledTo x y w h f (n + 1) := by
  obtain ⟨⟨hxs, hxe, hys, hye, hmode⟩, hpos, hshown⟩ := hp
  obtain ⟨hcol, hrow⟩ := hpos hn
  refine ⟨⟨hxs, hxe, hys, hye, hmode⟩, fun hn' => ?_, fun k hk => ?_⟩
  · have hw : 0 < w := Nat.pos_of_ne_zero fun h0 => by simp [h0] at hn'
    have hbound : (n + 1) / w < h := Nat.div_lt_of_lt_mul hn'
    have hnext := raster_succ n hw
    by_cases hlast : w < n % w + 2
    · obtain ⟨hmod, hdiv⟩ := Prod.mk.inj (hnext.trans (if_pos hlast))
      simp only [Panel.put, hxs, hxe, hys, hye, hcol, hrow, hmod, hdiv]
      rw [if_pos (by omega)]
      exact ⟨rfl, if_neg (by omega)⟩
    · obtain ⟨hmod, hdiv⟩ := Prod.mk.inj (hnext.trans (if_neg hlast))
      simp only [Panel.put, hxs, hxe, hys, hye, hcol, hrow, hmod, hdiv]
      rw [if_neg (by omega)]
      exact ⟨rfl, if_neg (by omega)⟩
  · rw [Panel.pixel_put, hcol, hrow]
    by_cases hkn : k = n
    · simp [hkn]
    · rw [if_neg, hshown k (by omega)]
      intro hsame
      obtain ⟨hx, hy⟩ := Prod.mk.inj hsame
      exact hkn (raster_injective (Nat.add_left_cancel hx) (Nat.add_left_cancel hy))

/-- Two samples, packed, sent and unpacked, are two pixels put (R67, R72). -/
theorem Panel.receive_triple (c : Config) {p : Panel} (hp : p.mode = .ramwr []) (a b : Bool) :
    p.receive c (dataItems (triple a b)) = (p.put (colour a)).put (colour b) := by
  have hpair : ∀ b0 b1 b2, triple a b = [b0, b1, b2] → unpackTriple b0 b1 b2 = (colour a, colour b) := by
    cases a <;> cases b <;> rintro _ _ _ ⟨⟩ <;> decide
  obtain ⟨b0, b1, b2, htriple⟩ := List.length_eq_three.mp (triple_length a b)
  have hputs : { ({ p with mode := .ramwr [b0, b1] }.put (colour a)).put (colour b) with mode := .ramwr [] } =
      (p.put (colour a)).put (colour b) := by
    rw [← hp]
    rfl
  simpa [htriple, dataItems, Panel.item, Panel.pixelByte, hp, hpair b0 b1 b2 htriple] using hputs

/-- A stream of `n` pairs fills the first `2 n` pixels of the window (R70). -/
theorem Panel.receive_pairs (c : Config) {p : Panel} {x y w h : Nat} (src : Source)
    (hp : p.FilledTo x y w h (fun k => colour (sampleAt src w k)) 0) :
    ∀ n, 2 * n ≤ w * h → (p.receive c ((List.range n).flatMap fun k => pairItems src w (2 * k))).FilledTo x y w h
      (fun k => colour (sampleAt src w k)) (2 * n) := by
  intro n hn
  induction n with
  | zero => exact hp
  | succ n ih =>
    have hq := ih (by omega)
    rw [List.range_succ, List.flatMap_append, Panel.receive_append, List.flatMap_singleton, pairItems_eq,
      Panel.receive_triple c hq.addresses.mode]
    exact (hq.put (by omega)).put (by omega)

/-- The sample of the pixel sent as number `px + w py` is that of the window pixel `(px, py)` (R68). -/
theorem sampleAt_raster (src : Source) {w px : Nat} (hpx : px < w) (py : Nat) :
    sampleAt src w (px + w * py) = samplePixel src w px py := by
  cases src with
  | none => rfl
  | some bytes =>
    show sample bytes w ((px + w * py) % w) ((px + w * py) / w) = sample bytes w px py
    rw [Nat.add_mul_mod_self_left, Nat.mod_eq_of_lt hpx, Nat.add_mul_div_left _ _ (by omega), Nat.div_eq_of_lt hpx,
      Nat.zero_add]

/-- A window packet and the stream of that window, of even width, show its samples there, whatever the receiver was at
before, and leave it addressing that window (R25). -/
theorem Panel.receive_packet_stream {c : Config} (hc : commandsDiffer c) (p : Panel) (src : Source) {x y w h : Nat}
    (hok : WindowAccepted x y w h) :
    (p.receive c (packet c x y w h ++ streamItems src w h)).Addresses (x + c.xOfs) (y + c.yOfs) w h ∧
    ∀ px < w, ∀ py < h, (p.receive c (packet c x y w h ++ streamItems src w h)).pixel (x + c.xOfs + px)
      (y + c.yOfs + py) = some (colour (samplePixel src w px py)) := by
  obtain ⟨heven, hw, hh, hx, hy⟩ := hok
  have hpairs : 2 * (w * h / 2) = w * h :=
    Nat.mul_div_cancel' (Dvd.dvd.mul_right (Nat.dvd_of_mod_eq_zero heven) h)
  obtain ⟨haddr, hcol, hrow⟩ := receive_packet hc p hw hh hx hy
  have hstart : (p.receive c (packet c x y w h)).FilledTo (x + c.xOfs) (y + c.yOfs) w h
      (fun k => colour (sampleAt src w k)) 0 :=
    ⟨haddr, fun _ => by simp [hcol, hrow], fun k hk => absurd hk (Nat.not_lt_zero k)⟩
  have hfull := receive_pairs c src hstart (w * h / 2) (by omega)
  rw [receive_append]
  refine ⟨hfull.addresses, fun px hpx py hpy => ?_⟩
  have hk : px + w * py < 2 * (w * h / 2) := by
    calc px + w * py < w + w * py := by omega
      _ = w * (py + 1) := by ring
      _ ≤ w * h := Nat.mul_le_mul_left w hpy
      _ = 2 * (w * h / 2) := hpairs.symm
  have hshown := hfull.shown _ hk
  rwa [sampleAt_raster src hpx, Nat.add_mul_mod_self_left, Nat.mod_eq_of_lt hpx, Nat.add_mul_div_left _ _ hw,
    Nat.div_eq_of_lt hpx, Nat.zero_add] at hshown

/-- Settles O48: what PUTCHAR sends is the packet of the cell's window and the stream of that window. -/
theorem panelShowsTheGlyphAfterPutchar : Obligations.PanelShowsTheGlyphAfterPutchar := by
  intro c p code s t hc hinv hr ht
  obtain ⟨hx, hy, -⟩ := hinv
  have hok := cell_accepted hx hy
  rw [putcharOp, putChar_drawn c hr hok, finish_ok] at ht
  obtain rfl := Host.Outcome.next.inj ht
  have hsent : ((drawn c code s).respond 0).tx.drop s.tx.length = packet c s.curX.toNat s.curY.toNat 6 8 ++
      streamItems (some (glyphCell c (Fin.ofNat 96 (code.toNat - 0x20)))) 6 8 := List.drop_left
  rw [hsent]
  obtain ⟨⟨hxs, hxe, hys, hye, -⟩, hpixel⟩ := Panel.receive_packet_stream hc p _ hok
  refine ⟨fun px hpx py hpy => ?_, hxs, hxe.trans (by omega), hys, hye.trans (by omega), rfl, rfl⟩
  rw [Nat.add_right_comm, Nat.add_right_comm s.curY.toNat, hpixel px hpx py hpy, samplePixel_glyphCell c code hpx hpy]

end Sys2Proof.Machine
end

section
/-! SUPPORT. The decoder and the encoder are inverse to each other, and agree with the opcode table (R41 to R44). -/

namespace Sys2Proof

/-! ### Words and their fields -/

section Fields

variable {op a b c d e : Byte} {p : Ptr} {w : Request}

theorem Request.ofBytes_eq_iff : Request.ofBytes op a b c d e = w ↔
    w.op = op ∧ w.a = a ∧ w.b = b ∧ w.c = c ∧ w.d = d ∧ w.e = e := by
  constructor
  · rintro rfl
    simp
  · rintro ⟨rfl, rfl, rfl, rfl, rfl, rfl⟩
    exact w.ofBytes_fields

theorem Request.ofPtr_eq_iff : Request.ofPtr op a b c p = w ↔
    w.op = op ∧ w.a = a ∧ w.b = b ∧ w.c = c ∧ w.p = p := by
  constructor
  · rintro rfl
    simp
  · rintro ⟨rfl, rfl, rfl, rfl, rfl⟩
    exact w.ofPtr_fields

/-- The opcode as the byte it is, where the decoder reads its number. -/
theorem Request.op_eq_of_toNat {n : Nat} (h : w.op.toNat = n) : w.op = BitVec.ofNat 8 n := by
  rw [← h, BitVec.ofNat_toNat, BitVec.setWidth_eq]

end Fields

/-! ### The decoder's formats, case by case -/

section Formats

variable {unused : List Byte} {i j : Instr} {w : Request}

theorem Decoded.ifReservedZero_eq_legal :
    Decoded.ifReservedZero unused j = .legal i ↔ (∀ b ∈ unused, b = 0) ∧ j = i := by
  have hall : (∀ b ∈ unused, b = 0) ↔ unused.all (· == 0) = true := by simp
  rw [hall, Decoded.ifReservedZero]
  cases unused.all (· == 0) <;> simp

theorem Decoded.ifReservedZero_illegal :
    (∃ why, Decoded.ifReservedZero unused j = .illegal why) ↔ ∃ b ∈ unused, b ≠ 0 := by
  have hsome : (∃ b ∈ unused, b ≠ 0) ↔ ¬ unused.all (· == 0) = true := by simp
  rw [hsome, Decoded.ifReservedZero]
  cases unused.all (· == 0) <;> simp

/-- A check of an operand's value in front of a format (R44 clauses 3 and 5). -/
theorem Decoded.ite_eq_legal {q : Prop} [Decidable q] {x : Decoded} {why : Illegal} :
    (if q then x else .illegal why) = .legal i ↔ q ∧ x = .legal i := by
  by_cases hq : q <;> simp [hq]

theorem Decoded.ite_illegal {q : Prop} [Decidable q] {x : Decoded} {why : Illegal} :
    (∃ y, (if q then x else .illegal why) = .illegal y) ↔ (∃ y, x = .illegal y) ∨ ¬ q := by
  by_cases hq : q <;> simp [hq]

theorem decodePxset_eq_legal : decodePxset w = .legal i ↔
    w.c.toNat ≤ 1 ∧ w.d = 0 ∧ w.e = 0 ∧ .pxset w.a w.b w.c = i := by
  rw [decodePxset, Decoded.ite_eq_legal, Decoded.ifReservedZero_eq_legal]
  simp [and_assoc]

theorem decodePxset_illegal : (∃ why, decodePxset w = .illegal why) ↔ (w.d ≠ 0 ∨ w.e ≠ 0) ∨ 1 < w.c.toNat := by
  rw [decodePxset, Decoded.ite_illegal, Decoded.ifReservedZero_illegal]
  simp

/-- The three modes of STREAM (R71). -/
theorem decodeStream_eq_legal (h : decodeStream w = .legal i) : (w.b = 0 ∧ w.c = 0) ∧
    (w.a = 0 ∧ w.p = 0 ∧ i = .streamNone ∨ w.a = 1 ∧ w.p = 0 ∧ i = .streamFb ∨ w.a = 2 ∧ i = .streamHmem w.p) := by
  unfold decodeStream at h
  split at h
  case h_1 hmode =>
    rw [Decoded.ite_eq_legal, Decoded.ifReservedZero_eq_legal] at h
    obtain ⟨hp, hzero, rfl⟩ := h
    exact ⟨by simpa using hzero, .inl ⟨BitVec.eq_of_toNat_eq hmode, hp, rfl⟩⟩
  case h_2 hmode =>
    rw [Decoded.ite_eq_legal, Decoded.ifReservedZero_eq_legal] at h
    obtain ⟨hp, hzero, rfl⟩ := h
    exact ⟨by simpa using hzero, .inr (.inl ⟨BitVec.eq_of_toNat_eq hmode, hp, rfl⟩)⟩
  case h_3 hmode =>
    rw [Decoded.ifReservedZero_eq_legal] at h
    obtain ⟨hzero, rfl⟩ := h
    exact ⟨by simpa using hzero, .inr (.inr ⟨BitVec.eq_of_toNat_eq hmode, rfl⟩)⟩
  case h_4 => cases h

theorem decodeStream_illegal : (∃ why, decodeStream w = .illegal why) ↔
    (w.b ≠ 0 ∨ w.c ≠ 0) ∨ 2 < w.a.toNat ∨ w.a.toNat ≤ 1 ∧ w.p ≠ 0 := by
  unfold decodeStream
  split
  case h_1 hmode => simp [Decoded.ite_illegal, Decoded.ifReservedZero_illegal, hmode]
  case h_2 hmode => simp [Decoded.ite_illegal, Decoded.ifReservedZero_illegal, hmode]
  case h_3 hmode => simp [Decoded.ifReservedZero_illegal, hmode]
  case h_4 h0 h1 h2 => simp [Nat.two_lt_of_ne h0 h1 h2]

end Formats

/-- The five clauses of R44, clause 2 written out format by format. -/
def IllegalWord (w : Request) : Prop :=
  let op := w.op.toNat
  op ∉ [0x10, 0x11, 0x12, 0x13, 0x14, 0x20, 0x21, 0x30, 0x40, 0x41, 0x42, 0x43, 0x50, 0x60, 0x61, 0x62] ∨
  (op ∈ [0x21, 0x43, 0x60, 0x62] ∧ (w.a ≠ 0 ∨ w.b ≠ 0 ∨ w.c ≠ 0 ∨ w.d ≠ 0 ∨ w.e ≠ 0)) ∨
  (op ∈ [0x40] ∧ (w.b ≠ 0 ∨ w.c ≠ 0 ∨ w.d ≠ 0 ∨ w.e ≠ 0)) ∨
  (op ∈ [0x11, 0x12, 0x42] ∧ (w.c ≠ 0 ∨ w.d ≠ 0 ∨ w.e ≠ 0)) ∨
  (op ∈ [0x10] ∧ (w.d ≠ 0 ∨ w.e ≠ 0)) ∨
  (op ∈ [0x20] ∧ w.e ≠ 0) ∨
  (op ∈ [0x14, 0x41, 0x61] ∧ (w.a ≠ 0 ∨ w.b ≠ 0 ∨ w.c ≠ 0)) ∨
  (op ∈ [0x13, 0x30] ∧ (w.b ≠ 0 ∨ w.c ≠ 0)) ∨
  (op = 0x10 ∧ 1 < w.c.toNat) ∨
  (op = 0x30 ∧ 2 < w.a.toNat) ∨
  (op = 0x30 ∧ w.a.toNat ≤ 1 ∧ w.p ≠ 0)

/-- The decoder refuses a word exactly where a clause of R44 does: one case for each opcode, and one for no opcode. -/
theorem illegalWord_iff {w : Request} : IllegalWord w ↔ ∃ why, decode w = .illegal why := by
  unfold IllegalWord decode
  split
  case h_1 hop => simp [hop, decodePxset_illegal]
  case h_8 hop => simp [hop, decodeStream_illegal]
  case h_17 => -- no opcode of R43
    refine iff_of_true (.inl ?_) ⟨_, rfl⟩
    simp only [List.mem_cons, List.not_mem_nil, or_false, not_or]
    and_intros <;> assumption
  all_goals
    rename_i hop
    simp [hop, Decoded.ifReservedZero_illegal]

/-- The decoder reads back what the encoder wrote, operation by operation. -/
theorem decode_encode {i : Instr} (h : i.wellFormed = true) : decode (encode i) = .legal i := by
  cases i with
  | pxset x y v =>
    have hv : v.toNat ≤ 1 := of_decide_eq_true h
    simp [decode, encode, decodePxset_eq_legal, hv]
  | streamNone | streamFb | streamHmem addr => simp [decode, encode, decodeStream, Decoded.ifReservedZero]
  | _ => simp [decode, encode, Decoded.ifReservedZero_eq_legal]

/-- A legal word is its opcode's format written back: the fields the decoder read, and zero in those it checked. -/
theorem encode_of_decode {w : Request} {i : Instr} (h : decode w = .legal i) :
    i.wellFormed = true ∧ encode i = w := by
  unfold decode at h
  split at h
  case h_1 hop =>
    obtain ⟨hc, hd, he, rfl⟩ := decodePxset_eq_legal.mp h
    simp [Instr.wellFormed, encode, Request.ofBytes_eq_iff, Request.op_eq_of_toNat hop, hc, hd, he]
  case h_8 hop =>
    obtain ⟨⟨hb, hc⟩, ⟨ha, hp, rfl⟩ | ⟨ha, hp, rfl⟩ | ⟨ha, rfl⟩⟩ := decodeStream_eq_legal h
    all_goals simp [Instr.wellFormed, encode, Request.ofPtr_eq_iff, Request.op_eq_of_toNat hop, *]
  case h_13 hop => -- IMPBMP, which reserves no field
    obtain rfl := Decoded.legal.inj h
    simp [Instr.wellFormed, encode, Request.ofPtr_eq_iff, Request.op_eq_of_toNat hop]
  case h_17 => cases h -- no opcode of R43
  all_goals
    rename_i hop
    obtain ⟨hzero, rfl⟩ := Decoded.ifReservedZero_eq_legal.mp h
    simp_all [Instr.wellFormed, encode, Request.ofBytes_eq_iff, Request.ofPtr_eq_iff, Request.op_eq_of_toNat hop]

/-! ### The opcode table -/

section Table

variable {r : OpcodeRow} {w v : Request}

theorem Request.eq_iff_fields :
    w = v ↔ w.op = v.op ∧ w.a = v.a ∧ w.b = v.b ∧ w.c = v.c ∧ w.d = v.d ∧ w.e = v.e := by
  rw [eq_comm, ← Request.ofBytes_eq_iff, v.ofBytes_fields]

/-- A row covers a word byte by byte (R41). The bytes of the row are written as `extractLsb'`, so that `simp` computes
them for a literal row and leaves the fields of `w` alone. -/
theorem OpcodeRow.covers_iff : r.covers w = true ↔
    w.op &&& r.mask.extractLsb' 40 8 = r.pattern.extractLsb' 40 8 ∧
    w.a &&& r.mask.extractLsb' 32 8 = r.pattern.extractLsb' 32 8 ∧
    w.b &&& r.mask.extractLsb' 24 8 = r.pattern.extractLsb' 24 8 ∧
    w.c &&& r.mask.extractLsb' 16 8 = r.pattern.extractLsb' 16 8 ∧
    w.d &&& r.mask.extractLsb' 8 8 = r.pattern.extractLsb' 8 8 ∧
    w.e &&& r.mask.extractLsb' 0 8 = r.pattern.extractLsb' 0 8 := by
  rw [OpcodeRow.covers, beq_iff_eq, Request.eq_iff_fields]
  simp only [Request.op, Request.a, Request.b, Request.c, Request.d, Request.e, BitVec.extractLsb'_and]

/-- A byte the mask checks whole. -/
theorem and_full (b : Byte) : b &&& 255#8 = b := BitVec.and_allOnes

/-- The mask of PXSET's field `c` leaves one bit free (R44 clause 3). -/
theorem toNat_le_one_of_and_eq_zero : ∀ b : Byte, b &&& 254#8 = 0#8 → b.toNat ≤ 1 := by decide

theorem mem_opcodeTable : r ∈ opcodeTable ↔ ∃ i : Instr, i.row = r := by
  constructor
  · have hrows : ∀ r ∈ opcodeTable, ∃ i : Instr, i.row = r := by simp [opcodeTable]
    exact hrows r
  · rintro ⟨i, rfl⟩
    cases i <;> simp [opcodeTable, Instr.row]

/-- The encoding of an operation lies in its row, one lemma a row. -/
theorem covers_encode {i : Instr} (h : i.wellFormed = true) : i.row.covers (encode i) = true := by
  cases i with
  | pxset x y v => exact Laws.TableRow.pxset x y v h
  | pxclr x y => exact Laws.TableRow.pxclr x y h
  | pxget x y => exact Laws.TableRow.pxget x y h
  | fbwr val idx => exact Laws.TableRow.fbwr val idx h
  | fbrd idx => exact Laws.TableRow.fbrd idx h
  | setwin x y w k => exact Laws.TableRow.setwin x y w k h
  | rstwin => exact Laws.TableRow.rstwin h
  | streamNone => exact Laws.TableRow.streamNone h
  | streamFb => exact Laws.TableRow.streamFb h
  | streamHmem addr => exact Laws.TableRow.streamHmem addr h
  | putchar code => exact Laws.TableRow.putchar code h
  | putstr addr => exact Laws.TableRow.putstr addr h
  | setcur cx cy => exact Laws.TableRow.setcur cx cy h
  | clear => exact Laws.TableRow.clear h
  | impbmp xpos ypos thr addr => exact Laws.TableRow.impbmp xpos ypos thr addr h
  | init => exact Laws.TableRow.init h
  | drawfull addr => exact Laws.TableRow.drawfull addr h
  | dispbuf => exact Laws.TableRow.dispbuf h

/-- The operation of the row of `i` with its operands read from `w`. -/
def Instr.withOperandsOf (w : Request) (i : Instr) : Instr :=
  match i with
  | .pxset _ _ _ => .pxset w.a w.b w.c
  | .pxclr _ _ => .pxclr w.a w.b
  | .pxget _ _ => .pxget w.a w.b
  | .fbwr _ _ => .fbwr w.a w.p
  | .fbrd _ => .fbrd w.p
  | .setwin _ _ _ _ => .setwin w.a w.b w.c w.d
  | .rstwin => .rstwin
  | .streamNone => .streamNone
  | .streamFb => .streamFb
  | .streamHmem _ => .streamHmem w.p
  | .putchar _ => .putchar w.a
  | .putstr _ => .putstr w.p
  | .setcur _ _ => .setcur w.a w.b
  | .clear => .clear
  | .impbmp _ _ _ _ => .impbmp w.a w.b w.c w.p
  | .init => .init
  | .drawfull _ => .drawfull w.p
  | .dispbuf => .dispbuf

@[simp] theorem row_withOperandsOf (i : Instr) : (i.withOperandsOf w).row = i.row := by cases i <;> rfl

/-- A word in a row is the encoding of that row's operation with the word's own operands. -/
theorem encode_withOperandsOf {i : Instr} (h : i.row.covers w = true) :
    (i.withOperandsOf w).wellFormed = true ∧ encode (i.withOperandsOf w) = w := by
  cases i with
  | pxset x y v =>
    simp only [Instr.row, OpcodeRow.covers_iff] at h
    obtain ⟨hop, hc, hd, he⟩ : w.op = 16#8 ∧ w.c &&& 254#8 = 0#8 ∧ w.d = 0#8 ∧ w.e = 0#8 := by
      simpa [and_full] using h
    exact ⟨decide_eq_true (toNat_le_one_of_and_eq_zero _ hc), Request.ofBytes_eq_iff.mpr ⟨hop, rfl, rfl, rfl, hd, he⟩⟩
  | streamNone | streamFb =>
    simp only [Instr.row, OpcodeRow.covers_iff] at h
    refine ⟨rfl, Request.ofPtr_eq_iff.mpr ?_⟩
    rw [w.p_eq_zero_iff]
    simpa [and_full] using h
  | _ =>
    simp only [Instr.row, OpcodeRow.covers_iff] at h
    refine ⟨rfl, ?_⟩
    simpa [Instr.withOperandsOf, encode, Request.ofBytes_eq_iff, Request.ofPtr_eq_iff, and_full] using h

end Table

/-- The operation a word decodes to lies in the row that covers the word. -/
theorem covers_iff_decode {i : Instr} {w : Request} :
    i.row.covers w = true ↔ ∃ j, decode w = .legal j ∧ j.row = i.row := by
  constructor
  · intro h
    obtain ⟨hwf, henc⟩ := encode_withOperandsOf h
    have hdecode := decode_encode hwf
    rw [henc] at hdecode
    exact ⟨i.withOperandsOf w, hdecode, row_withOperandsOf i⟩
  · rintro ⟨j, hj, hrow⟩
    obtain ⟨hwf, rfl⟩ := encode_of_decode hj
    exact hrow ▸ covers_encode hwf

theorem decode_legal_or_illegal (w : Request) : (∃ i, decode w = .legal i) ∨ ∃ why, decode w = .illegal why := by
  cases h : decode w with
  | legal i => exact .inl ⟨i, rfl⟩
  | illegal why => exact .inr ⟨why, rfl⟩

/-- A word is refused exactly where no row covers it. -/
theorem illegal_iff_no_row {w : Request} :
    (∃ why, decode w = .illegal why) ↔ ∀ i : Instr, i.row.covers w = false := by
  constructor
  · rintro ⟨why, hwhy⟩ i
    refine Bool.eq_false_iff.mpr fun h => ?_
    obtain ⟨j, hj, -⟩ := covers_iff_decode.mp h
    cases hwhy.symm.trans hj
  · intro h
    refine (decode_legal_or_illegal w).resolve_left ?_
    rintro ⟨i, hi⟩
    exact Bool.eq_false_iff.mp (h i) (covers_iff_decode.mpr ⟨i, hi, rfl⟩)

end Sys2Proof
end

section
/-! SUPPORT. The response of an operation (R45, R104): its status and its data. -/

namespace Sys2Proof.Machine

/-- The errors an operation raises itself: Transport never fails (R104), and IllegalRequest is the decoder's (R45). -/
abbrev Status.OfOperation (e : Status) : Prop := e ∈ [Status.geometryError, .glyphRangeError, .addressError]

theorem Status.OfOperation.ne {e : Status} (h : e.OfOperation) :
    e ≠ .ok ∧ e ≠ .transportError ∧ e ≠ .illegalRequest := by
  cases e <;> simp at h ⊢

/-- The data of an OK response (R45). -/
def okData (i : Instr) (s : State) : Byte :=
  match i with
  | .pxget x y => bitByte (pixelAt s x.toNat y.toNat)
  | .fbrd idx => fbReadByte s.fb idx.toNat
  | _ => 0

theorem okData_eq_zero {i : Instr} (s : State) (hget : ∀ x y, i ≠ .pxget x y) (hread : ∀ idx, i ≠ .fbrd idx) :
    okData i s = 0 := by
  cases i with
  | pxget x y => exact absurd rfl (hget x y)
  | fbrd idx => exact absurd rfl (hread idx)
  | _ => rfl

theorem toNat_bitByte (b : Bool) : (bitByte b).toNat = b.toNat := by cases b <;> rfl

/-- `i`, performed on `s`, may give the response `r`. -/
def MayRespond (i : Instr) (s : State) (r : Response) : Prop :=
  r.status = .ok ∧ r.data = okData i s ∨ r.status.OfOperation ∧ r.data = 0

/-- Where the outcome is a next state, its last response is one that `i`, performed on `s`, may give. -/
def EndsInResponse (i : Instr) (s : State) (o : Host.Outcome State Fault Refusal) : Prop :=
  ∀ t, o = .next t → ∃ r, t.responses.getLast? = some r ∧ MayRespond i s r

/-- The attempt raises no other errors than an operation's own. -/
def RaisesOwn (r : Attempt) : Prop := ∀ e, r = .error e → e.OfOperation

/-! ### The errors of the shared procedures -/

section Attempts

variable {s : State}

theorem raisesOwn_ok (t : State) : RaisesOwn (.ok t) := by
  rintro e ⟨⟩

theorem raisesOwn_error {e : Status} (he : e.OfOperation) : RaisesOwn (.error e) := by
  rintro _ ⟨⟩
  exact he

theorem raisesOwn_ite {p : Prop} [Decidable p] {r q : Attempt} (hr : RaisesOwn r) (hq : RaisesOwn q) :
    RaisesOwn (if p then r else q) := by
  by_cases h : p
  · rwa [if_pos h]
  · rwa [if_neg h]

theorem raisesOwn_map {r : Attempt} (hr : RaisesOwn r) (f : State → State) : RaisesOwn (r.map f) := by
  cases r with
  | ok t => exact raisesOwn_ok (f t)
  | error e => exact hr

theorem raisesOwn_geometryError : RaisesOwn (.error .geometryError) := raisesOwn_error (by decide)

theorem raisesOwn_addressError : RaisesOwn (.error .addressError) := raisesOwn_error (by decide)

theorem setWindow_raisesOwn {c : Config} {x y w h : Nat} : RaisesOwn (setWindow c x y w h s) := by
  by_cases hok : WindowAccepted x y w h
  · rw [setWindow_accepted c hok]
    exact raisesOwn_ok _
  · rw [setWindow_refused c hok]
    exact raisesOwn_geometryError

theorem resetWindow_raisesOwn {c : Config} : RaisesOwn (resetWindow c s) := raisesOwn_map setWindow_raisesOwn _

theorem flush_raisesOwn {c : Config} {bytes : List Byte} : RaisesOwn (flush c bytes s) :=
  raisesOwn_map setWindow_raisesOwn _

theorem putChar_raisesOwn {c : Config} {code : Byte} : RaisesOwn (putChar c code s) := by
  obtain h | h | ⟨-, h⟩ := putChar_cases c code s <;> rw [h]
  · exact raisesOwn_error (by decide)
  · exact raisesOwn_geometryError
  · exact raisesOwn_ok _

theorem importBitmap_raisesOwn {xpos ypos thr addr : Nat} : RaisesOwn (importBitmap xpos ypos thr addr s) :=
  raisesOwn_ite raisesOwn_addressError <| raisesOwn_ite raisesOwn_geometryError <|
    raisesOwn_ite raisesOwn_addressError (raisesOwn_ok _)

end Attempts

/-! ### The last response of every operation -/

section Operations

variable {i : Instr} {s : State}

theorem respond_endsInResponse (t : State) {d : Byte} (hd : d = okData i s) :
    EndsInResponse i s (.next (t.respond d)) := by
  rintro _ ⟨⟩
  exact ⟨⟨.ok, d⟩, by simp, .inl ⟨rfl, hd⟩⟩

theorem raise_endsInResponse (t : State) {e : Status} (he : e.OfOperation) :
    EndsInResponse i s (.next (t.raise e)) := by
  rintro _ ⟨⟩
  exact ⟨⟨e, 0⟩, by simp, .inr ⟨he, rfl⟩⟩

theorem finish_endsInResponse {r : Attempt} (hdata : okData i s = 0) (hr : RaisesOwn r) :
    EndsInResponse i s (finish s r) := by
  cases r with
  | ok t => exact respond_endsInResponse t hdata.symm
  | error e => exact raise_endsInResponse s (hr e rfl)

theorem execPxget_endsInResponse (x y : Byte) : EndsInResponse (.pxget x y) s (execPxget x y s) := by
  unfold execPxget
  split
  · exact respond_endsInResponse s rfl
  · exact raise_endsInResponse s (by decide)

theorem execFbrd_endsInResponse (idx : Ptr) : EndsInResponse (.fbrd idx) s (execFbrd idx s) := by
  unfold execFbrd
  split
  · exact raise_endsInResponse s (by decide)
  · exact respond_endsInResponse s rfl

theorem execStreamFb_endsInResponse : EndsInResponse .streamFb s (execStreamFb s) := by
  unfold execStreamFb
  split
  · exact finish_endsInResponse rfl raisesOwn_geometryError
  · split
    · rintro _ ⟨⟩
    · exact finish_endsInResponse rfl (raisesOwn_ok _)

theorem execPutstr_endsInResponse (addr : Ptr) : EndsInResponse (.putstr addr) s (execPutstr addr s) := by
  obtain ⟨t, -, h⟩ := putStrLoop_cases Config.chip (fun _ => True) (fun _ _ _ _ => trivial)
    (65536 - addr.toNat) addr.toNat s trivial
  rw [execPutstr, putstrOp]
  obtain h | h | h | h := h <;> rw [h]
  · exact respond_endsInResponse t rfl
  · exact raise_endsInResponse t (by decide)
  · exact raise_endsInResponse t (by decide)
  · exact raise_endsInResponse t (by decide)

theorem execDrawfull_endsInResponse (addr : Ptr) : EndsInResponse (.drawfull addr) s (execDrawfull addr s) := by
  unfold execDrawfull drawfullOp
  exact finish_endsInResponse rfl (raisesOwn_ite raisesOwn_addressError flush_raisesOwn)

/-- The status and the data of every operation's response, one case an operation. -/
theorem exec_endsInResponse (i : Instr) (s : State) : EndsInResponse i s (exec i s) := by
  cases i with
  | pxset | pxclr => exact finish_endsInResponse rfl (raisesOwn_ite (raisesOwn_ok _) raisesOwn_geometryError)
  | pxget x y => exact execPxget_endsInResponse x y
  | fbwr => exact finish_endsInResponse rfl (raisesOwn_ite raisesOwn_addressError (raisesOwn_ok _))
  | fbrd idx => exact execFbrd_endsInResponse idx
  | setwin => exact finish_endsInResponse rfl setWindow_raisesOwn
  | rstwin => exact finish_endsInResponse rfl resetWindow_raisesOwn
  | streamNone | setcur | init => exact finish_endsInResponse rfl (raisesOwn_ok _)
  | streamFb => exact execStreamFb_endsInResponse
  | streamHmem =>
    exact finish_endsInResponse rfl
      (raisesOwn_ite raisesOwn_geometryError (raisesOwn_ite raisesOwn_addressError (raisesOwn_ok _)))
  | putchar => exact finish_endsInResponse rfl putChar_raisesOwn
  | putstr addr => exact execPutstr_endsInResponse addr
  | clear => exact finish_endsInResponse rfl (raisesOwn_map resetWindow_raisesOwn _)
  | impbmp => exact finish_endsInResponse rfl importBitmap_raisesOwn
  | drawfull addr => exact execDrawfull_endsInResponse addr
  | dispbuf => exact finish_endsInResponse rfl flush_raisesOwn

/-- An operation that answers adds exactly one response, with the status and data of R45. -/
theorem exec_response {t : State} (h : exec i s = .next t) :
    ∃ r, t.responses = s.responses ++ [r] ∧ MayRespond i s r := by
  obtain ⟨u, e, d, hperf, rfl⟩ := exec_next h
  obtain ⟨-, -, -, hresp⟩ := hperf.frame
  obtain ⟨r, hlast, hr⟩ := exec_endsInResponse i s _ h
  obtain rfl : ⟨e, d⟩ = r := by simpa using hlast
  exact ⟨_, by rw [answered_responses, hresp], hr⟩

end Operations

theorem Response.toNat_word (r : Response) : r.word.toNat = r.status.code.toNat * 256 + r.data.toNat :=
  toNat_append_eq _ _

end Sys2Proof.Machine
end

section
/-! The statements about the encoding (30_encoding.md). -/

namespace Sys2Proof

open Sys2Proof.Machine

/-- Settles O1, by cases on the operation. -/
theorem decodeOfEncodeIsTheOperation : Obligations.DecodeOfEncodeIsTheOperation := fun _ => decode_encode

/-- Settles O2, by cases on the opcode the decoder reads. -/
theorem encodeOfDecodeIsTheWord : Obligations.EncodeOfDecodeIsTheWord := fun _ _ => encode_of_decode

/-- Settles O3: a covered word is the encoding of the row's operation with the word's own operands. -/
theorem decoderFollowsTheOpcodeTable : Obligations.DecoderFollowsTheOpcodeTable := by
  refine ⟨fun w r hr => ?_, fun w => illegal_iff_no_row.trans ⟨fun h r hr => ?_, fun h i => ?_⟩⟩
  · obtain ⟨i, rfl⟩ := mem_opcodeTable.mp hr
    exact covers_iff_decode
  · obtain ⟨i, rfl⟩ := mem_opcodeTable.mp hr
    exact h i
  · exact h _ (mem_opcodeTable.mpr ⟨i, rfl⟩)

/-- Settles O5: the clauses are those the decoder refuses by, and a word it accepts is the encoding of its operation. -/
theorem illegalWordsAreAnsweredFour : Obligations.IllegalWordsAreAnsweredFour := by
  intro s w rest hhost op illegal
  have hillegal : illegal ↔ ∃ why, decode w = .illegal why := illegalWord_iff
  rw [step_request hhost, hillegal]
  refine ⟨fun ⟨why, hw⟩ => acceptRequest_illegal hw, fun hlegal => ?_⟩
  obtain ⟨i, hw⟩ := (decode_legal_or_illegal w).resolve_right hlegal
  obtain ⟨hwf, henc⟩ := encode_of_decode hw
  exact ⟨i, hwf, henc, acceptRequest_legal hw⟩

/-- Settles O6: an illegal word is answered 4, and a legal one as its operation responds. -/
theorem everyRequestGetsOneResponse : Obligations.EveryRequestGetsOneResponse := by
  refine ⟨Response.toNat_word, by decide, fun s t w rest hhost ht => ?_⟩
  rw [step_request hhost] at ht
  cases hw : decode w with
  | illegal why =>
    rw [acceptRequest_illegal hw] at ht
    obtain rfl := Host.Outcome.next.inj ht
    exact ⟨.illegalRequest, 0, rfl, by simp⟩
  | legal i =>
    rw [acceptRequest_legal hw] at ht
    obtain ⟨⟨e, d⟩, hresp, ⟨rfl, rfl⟩ | ⟨herror, rfl⟩⟩ := exec_response ht
    · refine ⟨.ok, _, hresp, by decide, fun h => absurd rfl h, fun hget hread => ?_, by simp, fun x y hi _ => ?_,
        fun idx hi _ => ?_⟩
      · exact okData_eq_zero _ (fun x y h => hget x y (congrArg _ h)) (fun idx h => hread idx (congrArg _ h))
      · obtain rfl := Decoded.legal.inj hi
        exact toNat_bitByte _
      · obtain rfl := Decoded.legal.inj hi
        rfl
    · obtain ⟨hok, htransport, hrequest⟩ := Status.OfOperation.ne herror
      exact ⟨e, 0, hresp, htransport, fun _ => rfl, fun _ _ => rfl, by simp [hrequest], fun _ _ _ he => absurd he hok,
        fun _ _ he => absurd he hok⟩

/-- Settles O4, by running the decoder on the eleven words. -/
theorem wordsOfTheSpecDecode : Obligations.WordsOfTheSpecDecode := by
  unfold Obligations.WordsOfTheSpecDecode
  decide

end Sys2Proof
end

section
/-! SUPPORT. What the five operations of the framebuffer bit indexer answer, in range and out of it (R55 to R59), and the
pixel map with its inverse (R52, R54). -/

namespace Sys2Proof.Machine

/-! ### The pixel map -/

/-- R54: a pixel comes back from its byte and bit. -/
theorem pixel_of_fbIndex {x : Nat} (hx : x < 84) (y : Nat) :
    fbIndex x y % 84 = x ∧ 8 * (fbIndex x y / 84) + fbBit y = y := by
  unfold fbIndex fbBit; omega

/-- R54: a byte and a bit come back from their pixel. -/
theorem fbIndex_of_byte (k : Nat) {b : Nat} (hb : b < 8) :
    fbIndex (k % 84) (8 * (k / 84) + b) = k ∧ fbBit (8 * (k / 84) + b) = b := by
  unfold fbIndex fbBit; omega

/-! ### One pixel written -/

section Pixel

variable {x y : Nat} (v : Bool) (s : State)

theorem pixelInRange_iff : pixelInRange x y = true ↔ x < 84 ∧ y < 48 := by simp [pixelInRange]

theorem writePixel_inRange (h : x < 84 ∧ y < 48) :
    writePixel x y v s = .next ((s.setFb (fbWriteBit s.fb x y v)).respond 0) := by
  rw [writePixel, if_pos (pixelInRange_iff.mpr h), finish_ok]

theorem writePixel_outOfRange (h : ¬ (x < 84 ∧ y < 48)) : writePixel x y v s = .next (s.raise .geometryError) := by
  rw [writePixel, if_neg (mt pixelInRange_iff.mp h), finish_error]

/-- R53: the write of a pixel in range is the write of one bit of FB. -/
theorem writePixel_writes_one_bit (h : x < 84 ∧ y < 48) : ∃ fb : Framebuffer,
    writePixel x y v s = .next { s with fb := fb, responses := s.responses ++ [⟨.ok, 0⟩] } ∧
    ∀ k < 504, ∀ j < 8, (fbReadByte fb k).getLsbD j =
      if k = x + 84 * (y / 8) ∧ j = y % 8 then v else fbBitAt s k j :=
  ⟨_, writePixel_inRange v s h, fun k _ _ hj => fbReadByte_fbWriteBit s.fb h.1 h.2 v k hj⟩

/-- The pixels after the write of one: the pixel written, and every other as before. -/
theorem pixelAt_afterWrite (h : x < 84 ∧ y < 48) {x' : Nat} (hx' : x' < 84) (y' : Nat) :
    pixelAt ((s.setFb (fbWriteBit s.fb x y v)).respond 0) x' y' =
      if x' = x ∧ y' = y then v else pixelAt s x' y' :=
  fbReadBit_fbWriteBit s.fb h.1 h.2 hx' v

end Pixel

/-! ### The operations on pixels -/

section Operations

variable (x y v val : Byte) (idx : Ptr) (s : State)

theorem exec_pxset_eq : exec (.pxset x y v) s = writePixel x.toNat y.toNat (decide (v = 1)) s := rfl

theorem exec_pxclr_eq : exec (.pxclr x y) s = writePixel x.toNat y.toNat false s := rfl

variable {x y} in
theorem exec_pxget_inRange (h : x.toNat < 84 ∧ y.toNat < 48) :
    exec (.pxget x y) s = .next (answered s .ok (bitByte (pixelAt s x.toNat y.toNat))) :=
  if_pos (pixelInRange_iff.mpr h)

variable {x y} in
theorem exec_pxget_outOfRange (h : ¬ (x.toNat < 84 ∧ y.toNat < 48)) :
    exec (.pxget x y) s = .next (answered s .geometryError 0) :=
  if_neg (mt pixelInRange_iff.mp h)

/-- PXSET's operand is the byte of the pixel it writes (R55, R57). -/
theorem bitByte_decide_eq_one {v : Byte} (hv : v.toNat ≤ 1) : bitByte (decide (v = 1)) = v := by
  obtain h | h := Nat.le_one_iff_eq_zero_or_eq_one.mp hv
  · obtain rfl : v = 0 := BitVec.eq_of_toNat_eq h
    rfl
  · obtain rfl : v = 1 := BitVec.eq_of_toNat_eq h
    rfl

/-! ### The operations on bytes -/

variable {idx} in
theorem exec_fbwr_inRange (h : idx.toNat < 504) :
    exec (.fbwr val idx) s = .next ((s.setFb (fbWriteByte s.fb idx.toNat val)).respond 0) :=
  congrArg (finish s) (if_neg (Nat.not_le.mpr h))

variable {idx} in
theorem exec_fbwr_outOfRange (h : 504 ≤ idx.toNat) :
    exec (.fbwr val idx) s = .next (answered s .addressError 0) :=
  congrArg (finish s) (if_pos h)

variable {idx} in
theorem exec_fbrd_inRange (h : idx.toNat < 504) :
    exec (.fbrd idx) s = .next (answered s .ok (fbReadByte s.fb idx.toNat)) :=
  if_neg (Nat.not_le.mpr h)

variable {idx} in
theorem exec_fbrd_outOfRange (h : 504 ≤ idx.toNat) : exec (.fbrd idx) s = .next (answered s .addressError 0) :=
  if_pos h

end Operations

/-- R55: the decoder refuses a PXSET word whose value is above 1. -/
theorem decode_pxset_illegal (x y : Byte) {v : Byte} (hv : 1 < v.toNat) :
    ∃ why, decode (.ofBytes 0x10 x y v 0 0) = .illegal why := by
  have hformat : decode (.ofBytes 0x10 x y v 0 0) = decodePxset (.ofBytes 0x10 x y v 0 0) := by simp [decode]
  rw [hformat]
  exact decodePxset_illegal.mpr (.inr (by rwa [Request.c_ofBytes]))

end Sys2Proof.Machine
end

section
/-! The statements about the framebuffer bit indexer (40_framebuffer_bit_indexer.md). -/

namespace Sys2Proof

open Sys2Proof.Machine

/-- Settles O11: the map and its inverse undo each other, and a read after a write sees the one pixel written. -/
theorem pixelMapIsABijection : Obligations.PixelMapIsABijection := by
  refine ⟨fun x hx y hy => ⟨fbIndex_lt hx hy, fbBit_lt y, pixel_of_fbIndex hx y⟩,
    fun k hk b hb => ⟨Nat.mod_lt k (by decide), by omega, fbIndex_of_byte k hb⟩,
    rfl, rfl, rfl, rfl, rfl, rfl, rfl, fun x y x' y' v s hx hy hx' hy' hv => ?_⟩
  have hxy : x.toNat < 84 ∧ y.toNat < 48 := ⟨hx, hy⟩
  refine ⟨_, _, (exec_pxset_eq x y v s).trans (writePixel_inRange _ s hxy), ?_,
    (exec_pxclr_eq x y _).trans (writePixel_inRange _ _ hxy), ?_, fun hne => ?_⟩
  · rw [exec_pxget_inRange _ hxy, pixelAt_afterWrite _ _ hxy hx, if_pos ⟨rfl, rfl⟩, bitByte_decide_eq_one hv]
  · rw [exec_pxget_inRange _ hxy, pixelAt_afterWrite _ _ hxy hx, if_pos ⟨rfl, rfl⟩]
    rfl
  · have hother : ¬ (x'.toNat = x.toNat ∧ y'.toNat = y.toNat) := fun ⟨hxx, hyy⟩ =>
      hne (Prod.ext (BitVec.eq_of_toNat_eq hxx) (BitVec.eq_of_toNat_eq hyy))
    refine ⟨_, exec_pxget_inRange s ⟨hx', hy'⟩, ?_, ?_⟩
    · rw [exec_pxget_inRange _ ⟨hx', hy'⟩, pixelAt_afterWrite _ _ hxy hx', if_neg hother]
    · rw [exec_pxget_inRange _ ⟨hx', hy'⟩, pixelAt_afterWrite _ _ hxy hx', if_neg hother,
        pixelAt_afterWrite _ _ hxy hx', if_neg hother]

/-- Settles O12: the decoder's check of the value, and the write of one bit in range or none. -/
theorem pxsetWritesExactlyOnePixel : Obligations.PxsetWritesExactlyOnePixel := by
  intro x y v s
  rw [exec_pxset_eq]
  exact ⟨fun hv => decode_encode (i := .pxset x y v) (decide_eq_true hv), decode_pxset_illegal x y,
    fun _ h => writePixel_writes_one_bit _ s h, writePixel_outOfRange _ s⟩

/-- Settles O13: the write of PXSET with the value 0. -/
theorem pxclrClearsExactlyOnePixel : Obligations.PxclrClearsExactlyOnePixel := by
  intro x y s
  rw [exec_pxclr_eq]
  exact ⟨decode_encode (i := .pxclr x y) rfl, writePixel_writes_one_bit false s, writePixel_outOfRange false s⟩

/-- Settles O14: the byte answered is the pixel's, a bit of FB by its arithmetic form. -/
theorem pxgetAnswersThePixel : Obligations.PxgetAnswersThePixel := fun x y s =>
  ⟨decode_encode (i := .pxget x y) rfl,
    fun h => ⟨_, exec_pxget_inRange s h, (toNat_bitByte _).trans (Nat.toNat_testBit _ _)⟩, exec_pxget_outOfRange s⟩

/-- Settles O15, by the read of a byte after the write of one. -/
theorem fbwrWritesExactlyOneByte : Obligations.FbwrWritesExactlyOneByte := fun val idx s =>
  ⟨decode_encode (i := .fbwr val idx) rfl,
    fun h => ⟨_, exec_fbwr_inRange val s h, fun k _ => fbReadByte_fbWriteByte s.fb h val k⟩, exec_fbwr_outOfRange val s⟩

/-- Settles O16: below 504 the byte is answered, and from 504 on AddressError. -/
theorem fbrdAnswersTheByte : Obligations.FbrdAnswersTheByte := fun idx s =>
  ⟨decode_encode (i := .fbrd idx) rfl, exec_fbrd_inRange s, exec_fbrd_outOfRange s⟩

end Sys2Proof
end

section
/-! SUPPORT. What SETWIN and RSTWIN answer (R62, R64). -/

namespace Sys2Proof.Machine

variable (s : State)

/-- The operands of SETWIN are bytes, so the window registers hold them as they are (R16, R17). -/
theorem State.setWindowSize_toNat (w h : Byte) :
    s.setWindowSize w.toNat h.toNat = { s with winW := w, winH := h } := by
  simp only [State.setWindowSize, BitVec.ofNat_toNat, BitVec.setWidth_eq]

theorem exec_setwin_accepted {x y w h : Byte} (hok : WindowAccepted x.toNat y.toNat w.toNat h.toNat) :
    exec (.setwin x y w h) s = .next (State.respond
      { s.send (packet Config.chip x.toNat y.toNat w.toNat h.toNat) with winW := w, winH := h } 0) := by
  rw [← State.setWindowSize_toNat]
  exact congrArg (finish s) (setWindow_accepted Config.chip hok s)

theorem exec_setwin_refused {x y w h : Byte} (hno : ¬ WindowAccepted x.toNat y.toNat w.toNat h.toNat) :
    exec (.setwin x y w h) s = .next (answered s .geometryError 0) :=
  congrArg (finish s) (setWindow_refused Config.chip hno s)

theorem exec_rstwin_eq :
    exec .rstwin s = .next
      ((((s.send (packet Config.chip 0 0 84 48)).setWindowSize 84 48).setCursor 0 0).respond 0) :=
  congrArg (finish s) (resetWindow_eq Config.chip s)

end Sys2Proof.Machine
end

section
/-! The statements about the window address translator (41_window_address_translator.md). -/

namespace Sys2Proof

open Sys2Proof.Machine

/-- Settles O17: the rectangles R62 accepts are those SetWindow sends the packet for, and it refuses every other. -/
theorem setwinSendsThePacketOrRefuses : Obligations.SetwinSendsThePacketOrRefuses := by
  intro x y w h s
  rw [← Nat.pos_iff_ne_zero, ← Nat.pos_iff_ne_zero]
  exact ⟨decode_encode (i := .setwin x y w h) rfl, exec_setwin_accepted s, exec_setwin_refused s⟩

/-- Settles O18: the default rectangle passes every check of SetWindow, so RSTWIN always answers OK. -/
theorem rstwinRecentresAndHomes : Obligations.RstwinRecentresAndHomes := fun s =>
  ⟨decode_encode (i := .rstwin) rfl, exec_rstwin_eq s⟩

end Sys2Proof
end

section
/-! SUPPORT. The packing of two pixels with its inverse (R67, R72), what each mode of STREAM answers in its domain and
out of it (R69 to R71), and the pixels it sends. -/

namespace Sys2Proof.Machine

/-! ### The packing and its inverse -/

/-- R67 in numbers. -/
theorem packPair_eq (p1 p2 : Colour) : packPair p1 p2 =
    [BitVec.ofNat 8 (p1.toNat / 16), BitVec.ofNat 8 (p1.toNat % 16 * 16 + p2.toNat / 256),
      BitVec.ofNat 8 (p2.toNat % 256)] := by
  have hp2 := p2.isLt
  have h0 : p1.extractLsb' 4 8 = BitVec.ofNat 8 (p1.toNat / 16) := by
    simp [BitVec.toNat_eq, BitVec.extractLsb'_toNat, Nat.shiftRight_eq_div_pow]
  have h1 : p1.extractLsb' 0 4 ++ p2.extractLsb' 8 4 = BitVec.ofNat 8 (p1.toNat % 16 * 16 + p2.toNat / 256) := by
    apply BitVec.eq_of_toNat_eq
    rw [toNat_append_eq]
    simp only [BitVec.extractLsb'_toNat, BitVec.toNat_ofNat, Nat.shiftRight_eq_div_pow]
    omega
  have h2 : p2.extractLsb' 0 8 = BitVec.ofNat 8 (p2.toNat % 256) := by
    simp [BitVec.toNat_eq, BitVec.extractLsb'_toNat]
  rw [packPair, h0, h1, h2]

/-- R72: a pair of pixels comes back from its three bytes. -/
theorem unpackTriple_of_packPair {p1 p2 : Colour} {b0 b1 b2 : Byte} (h : packPair p1 p2 = [b0, b1, b2]) :
    unpackTriple b0 b1 b2 = (p1, p2) := by
  have hp1 := p1.isLt
  have hp2 := p2.isLt
  simp only [packPair_eq, List.cons.injEq, and_true] at h
  obtain ⟨rfl, rfl, rfl⟩ := h
  refine Prod.ext (BitVec.eq_of_toNat_eq ?_) (BitVec.eq_of_toNat_eq ?_) <;>
    simp only [unpackTriple, BitVec.toNat_ofNat] <;> omega

/-- R72: every triple of bytes is the packing of the pair it unpacks to. -/
theorem packPair_unpackTriple (b0 b1 b2 : Byte) :
    packPair (unpackTriple b0 b1 b2).1 (unpackTriple b0 b1 b2).2 = [b0, b1, b2] := by
  have hb0 := b0.isLt
  have hb1 := b1.isLt
  have hb2 := b2.isLt
  simp only [packPair_eq, unpackTriple, List.cons.injEq, and_true]
  refine ⟨BitVec.eq_of_toNat_eq ?_, BitVec.eq_of_toNat_eq ?_, BitVec.eq_of_toNat_eq ?_⟩ <;>
    simp only [BitVec.toNat_ofNat] <;> omega

theorem colour_injective : Function.Injective colour := by decide

/-! ### The pixels of a stream -/

/-- A byte of FB as a source (R52, R69). -/
theorem samplePixel_framebuffer (s : State) (w px py : Nat) :
    samplePixel (some s.fb.toList) w px py = fbBitAt s (px + w * (py / 8)) (py % 8) := by
  rw [samplePixel, sample, fbReadByte_toList, fbBitAt]

/-- A pixel of the window lies in one of the bytes a stream reads from (R69). -/
theorem sourceIndex_lt_srcLen {w h px py : Nat} (hpx : px < w) (hpy : py < h) : px + w * (py / 8) < srcLen w h := by
  calc px + w * (py / 8) < w + w * (py / 8) := by omega
    _ = w * (py / 8 + 1) := by ring
    _ ≤ w * ((h + 7) / 8) := Nat.mul_le_mul_left w (by omega)

/-- A byte of HMEM as a source (R69, R71). -/
theorem samplePixel_hmemBytes (s : State) (addr : Nat) {w h px py : Nat} (hpx : px < w) (hpy : py < h) :
    samplePixel (some (hmemBytes s addr (srcLen w h))) w px py =
      (s.hmem.read (addr + (px + w * (py / 8)))).getLsbD (py % 8) := by
  rw [samplePixel, sample, hmemBytes_getD s addr _ _ (sourceIndex_lt_srcLen hpx hpy)]

/-! ### The three modes of STREAM -/

section Modes

variable {s : State}

theorem streamDomainOk_iff {w h : Nat} : streamDomainOk w h = true ↔ w = 84 ∨ h ≤ 8 := by simp [streamDomainOk]

theorem exec_streamNone_eq : exec .streamNone s = .next ((streamWindow none s).respond 0) := rfl

theorem exec_streamFb_inDomain (hdom : streamDomainOk s.winW.toNat s.winH.toNat = true)
    (hlen : srcLen s.winW.toNat s.winH.toNat ≤ 504) :
    exec .streamFb s = .next ((streamWindow (some s.fb.toList) s).respond 0) :=
  (if_neg (not_not_intro hdom)).trans (if_neg (Nat.not_lt.mpr hlen))

theorem exec_streamFb_beyondFramebuffer (hdom : streamDomainOk s.winW.toNat s.winH.toNat = true)
    (hlen : 504 < srcLen s.winW.toNat s.winH.toNat) : exec .streamFb s = .fault .sourceBeyondFramebuffer :=
  (if_neg (not_not_intro hdom)).trans (if_pos hlen)

theorem exec_streamFb_outsideDomain (hdom : ¬ streamDomainOk s.winW.toNat s.winH.toNat = true) :
    exec .streamFb s = .next (answered s .geometryError 0) :=
  if_pos hdom

variable {addr : Ptr}

theorem exec_streamHmem_inDomain (hdom : streamDomainOk s.winW.toNat s.winH.toNat = true)
    (hend : addr.toNat + srcLen s.winW.toNat s.winH.toNat ≤ 65536) :
    exec (.streamHmem addr) s = .next
      ((streamWindow (some (hmemBytes s addr.toNat (srcLen s.winW.toNat s.winH.toNat))) s).respond 0) :=
  congrArg (finish s) ((if_neg (not_not_intro hdom)).trans (if_neg (Nat.not_lt.mpr hend)))

theorem exec_streamHmem_pastMemory (hdom : streamDomainOk s.winW.toNat s.winH.toNat = true)
    (hend : 65536 < addr.toNat + srcLen s.winW.toNat s.winH.toNat) :
    exec (.streamHmem addr) s = .next (answered s .addressError 0) :=
  congrArg (finish s) ((if_neg (not_not_intro hdom)).trans (if_pos hend))

theorem exec_streamHmem_outsideDomain (hdom : ¬ streamDomainOk s.winW.toNat s.winH.toNat = true) :
    exec (.streamHmem addr) s = .next (answered s .geometryError 0) :=
  congrArg (finish s) (if_pos hdom)

/-- An operation that answers OK after streaming a window of even width sends that window, pixel by pixel (R68, R70). -/
theorem isStream_of_streamWindow {i : Instr} {src : Source} {pix : Nat → Nat → Bool} (hw : WindowWidthOk s)
    (hexec : exec i s = .next ((streamWindow src s).respond 0))
    (hpix : ∀ px < s.winW.toNat, ∀ py < s.winH.toNat, samplePixel src s.winW.toNat px py = pix px py) :
    ∃ items, IsStream items s.winW.toNat s.winH.toNat pix ∧
      exec i s = .next { s with tx := s.tx ++ items, responses := s.responses ++ [⟨.ok, 0⟩] } :=
  ⟨_, isStream_congr (streamItems_isStream src hw.1 s.winH.toNat) hpix, hexec⟩

end Modes

end Sys2Proof.Machine
end

section
/-! The statements about the pixel codec (42_pixel_codec.md), and what a panel makes of DISPBUF's stream. -/

namespace Sys2Proof

open Sys2Proof.Machine

/-- Settles O20: R67 in numbers, and the inverse formula both ways. -/
theorem packingIsInvertible : Obligations.PackingIsInvertible :=
  ⟨fun _ _ => ⟨_, _, _, rfl, unpackTriple_of_packPair rfl⟩, packPair_unpackTriple,
    fun _ _ h => colour_injective h⟩

/-- Settles O21: in its domain each mode streams the window from its source, and outside it answers the error. -/
theorem streamSendsTheWindow : Obligations.StreamSendsTheWindow := by
  intro addr s hw hh w h streamed
  have hdom : w = 84 ∨ h ≤ 8 ↔ streamDomainOk w h = true := streamDomainOk_iff.symm
  rw [hdom]
  exact ⟨decode_encode (i := .streamNone) rfl, decode_encode (i := .streamFb) rfl,
    decode_encode (i := .streamHmem addr) rfl,
    isStream_of_streamWindow hw exec_streamNone_eq fun _ _ _ _ => rfl,
    fun hd => isStream_of_streamWindow hw (exec_streamFb_inDomain hd (srcLen_le hw.2.2 hh.2 hd))
      fun px _ py _ => samplePixel_framebuffer s w px py,
    exec_streamFb_outsideDomain,
    fun hd hend => isStream_of_streamWindow hw (exec_streamHmem_inDomain hd hend)
      fun _ hpx _ hpy => samplePixel_hmemBytes s addr.toNat hpx hpy,
    exec_streamHmem_pastMemory, exec_streamHmem_outsideDomain⟩

/-- Settles O22: without a source every pair is sent as three bytes 0xFF, whatever the window. -/
theorem streamNoneIsAllWhite : Obligations.StreamNoneIsAllWhite := by
  intro s
  rw [exec_streamNone_eq, streamWindow_eq, streamItems_none]
  rfl

/-- Settles O40: every other operation answers, and I3 and I4 bound the source bytes by the 504 of FB. -/
theorem streamFbAloneCanStop : Obligations.StreamFbAloneCanStop := by
  refine ⟨fun i s => ?_, fun s hdom hlen => ?_⟩
  · obtain ⟨u, e, d, -, hnext⟩ | ⟨rfl, hfault, hdom, hlen⟩ := exec_cases i s
    · exact .inl ⟨_, hnext⟩
    · exact .inr ⟨rfl, hfault, streamDomainOk_iff.mp hdom, hlen⟩
  · have hdom := streamDomainOk_iff.mpr hdom
    exact ⟨exec_streamFb_beyondFramebuffer hdom hlen,
      fun ⟨hw, hh⟩ => absurd (srcLen_le hw.2.2 hh.2 hdom) (Nat.not_le.mpr hlen)⟩

/-- Settles O47: DISPBUF sends the packet of the default window and the stream of FB through it. -/
theorem panelShowsTheFramebufferAfterDispbuf : Obligations.PanelShowsTheFramebufferAfterDispbuf := by
  intro c p s t hc ht x hx y hy
  rw [dispbufOp, flush_eq, finish_ok] at ht
  obtain rfl := Host.Outcome.next.inj ht
  have hsent : (s.tx ++ packet c 0 0 84 48 ++ streamItems (some s.fb.toList) 84 48).drop s.tx.length =
      packet c 0 0 84 48 ++ streamItems (some s.fb.toList) 84 48 := by
    rw [List.append_assoc, List.drop_left]
  obtain ⟨-, hpixel⟩ := Panel.receive_packet_stream hc p (some s.fb.toList) (x := 0) (y := 0) (w := 84) (h := 48)
    (by decide)
  have hshown := hpixel x hx y hy
  rw [samplePixel_framebuffer, ← hsent, Nat.zero_add, Nat.zero_add, Nat.add_comm _ x, Nat.add_comm _ y] at hshown
  exact hshown

/-- Settles O19: R67 in numbers, and the four pairs of colours. -/
theorem pairPackingLayout : Obligations.PairPackingLayout :=
  ⟨rfl, rfl, packPair_eq, packPair_colour, fun _ _ _ => rfl⟩

end Sys2Proof
end

section
/-! SUPPORT. What PUTCHAR, PUTSTR, SETCUR and CLEAR answer (R77 to R81), and the state PUTSTR's loop has reached after a
number of drawn characters. -/

namespace Sys2Proof.Machine

variable {s : State}

/-! ### PUTCHAR -/

theorem exec_putchar_renderable {code : Byte} (hs : Inv s) (hr : Renderable code) :
    exec (.putchar code) s = .next (answered (drawn Config.chip code s) .ok 0) := by
  obtain ⟨hx, hy, -⟩ := hs
  exact congrArg (finish s) (putChar_drawn Config.chip hr (cell_accepted hx hy))

theorem exec_putchar_refused {code : Byte} (hr : ¬ Renderable code) :
    exec (.putchar code) s = .next (answered s .glyphRangeError 0) :=
  congrArg (finish s) (putChar_refused Config.chip s hr)

/-- The data items of a glyph are the stream of its 6 by 8 cell (R74, R77). -/
theorem glyphItems_isStream (c : Config) (code : Byte) :
    IsStream (streamItems (some (glyphCell c (Fin.ofNat 96 (code.toNat - 0x20)))) 6 8) 6 8 (cellPixel c code) :=
  isStream_congr (streamItems_isStream _ rfl 8) fun _ hpx _ hpy => samplePixel_glyphCell c code hpx hpy

/-- R78 axis by axis: the row is chosen first, and the test against WIN_H sees the row chosen. -/
theorem advance_eq (x y winW winH : Nat) : advance x y winW winH =
    (if winW < x + 6 + 6 then 0 else x + 6,
      let down := if winW < x + 6 + 6 then y + 8 else y
      if winH < down + 8 then 0 else down) := by
  unfold advance
  by_cases hx : winW < x + 6 + 6
  · by_cases hy : winH < y + 8 + 8 <;> simp [hx, hy]
  · by_cases hy : winH < y + 8 <;> simp [hx, hy]

/-- In the default window the cursor goes from each of the 84 cells to the next in reading order, and from the last to
the first (R78, R82). -/
theorem advance_grid (n : Nat) : advance (6 * (n % 14)) (8 * (n / 14 % 6)) 84 48 =
    (6 * ((n + 1) % 14), 8 * ((n + 1) / 14 % 6)) := by
  have hwrap : 84 < 6 * (n % 14) + 6 + 6 ↔ n % 14 = 13 := by omega
  simp only [advance_eq, hwrap, Prod.mk.injEq]
  constructor
  · split <;> omega
  · split <;> split <;> omega

/-! ### PUTSTR -/

/-- What PUTSTR's loop leaves after the `n` characters from address `q` on (R79). -/
def drawnText : Nat → Nat → State → State
  | 0, _, s => s
  | n + 1, q, s => drawn Config.chip (s.hmem.read (q + n)) (drawnText n q s)

theorem drawnText_drawsText (n q : Nat) (s : State) : DrawsText s (drawnText n q s) := by
  induction n with
  | zero => exact .refl
  | succ n ih => exact ih.tail ⟨_, rfl⟩

/-- The characters move the cursor and send 83 items each (R76); everything else stays. -/
theorem drawnText_eq (n q : Nat) (s : State) : ∃ (x y : Byte) (items : List TxItem), items.length = 83 * n ∧
    drawnText n q s = { s with curX := x, curY := y, tx := s.tx ++ items } := by
  induction n with
  | zero => exact ⟨s.curX, s.curY, [], rfl, by simp [drawnText]⟩
  | succ n ih =>
    obtain ⟨x, y, items, hlen, heq⟩ := ih
    simp only [drawnText, heq, drawn, List.append_assoc]
    refine ⟨_, _, _, ?_, rfl⟩
    simp only [List.length_append, packet_length, streamItems_length, hlen]
    omega

/-- As long as the bytes have glyphs, the loop draws them and goes on behind them (R79). -/
theorem putStrLoop_drawnText (hs : Inv s) (n m q : Nat) (hr : ∀ k < n, Renderable (s.hmem.read (q + k))) :
    putStrLoop Config.chip (m + n) q s = putStrLoop Config.chip m (q + n) (drawnText n q s) := by
  induction n generalizing m with
  | zero => rfl
  | succ n ih =>
    have htext := drawnText_drawsText n q s
    obtain ⟨-, -, -, -, hmem, -⟩ := htext.frame
    obtain ⟨hx, hy, -⟩ := htext.inv hs
    have hlast : Renderable ((drawnText n q s).hmem.read (q + n)) := hmem ▸ hr n (by omega)
    rw [show m + (n + 1) = m + 1 + n by omega, ih (m + 1) fun k hk => hr k (by omega),
      putStrLoop_drawn _ _ _ hlast (cell_accepted hx hy), hmem, drawnText, Nat.add_assoc]

/-- The status PUTSTR ends with at an address past HMEM, or at one whose byte has no glyph (R79). -/
def endStatus (m : Memory) (q : Nat) : Status :=
  if q = 65536 then .addressError else if m.read q = 0 then .ok else .glyphRangeError

theorem not_renderable_of_eq_zero {code : Byte} (h : code = 0) : ¬ Renderable code := by
  subst h
  decide

theorem putStrLoop_stops (c : Config) {q : Nat} (hq : q ≤ 65536) (hr : q < 65536 → ¬ Renderable (s.hmem.read q)) :
    putStrLoop c (65536 - q) q s = answered s (endStatus s.hmem q) 0 := by
  obtain rfl | hlt := Nat.eq_or_lt_of_le hq
  · rfl
  · rw [endStatus, if_neg hlt.ne, show 65536 - q = 65535 - q + 1 by omega, putStrLoop_succ]
    by_cases hzero : s.hmem.read q = 0
    · rw [if_pos hzero, if_pos hzero]
      rfl
    · rw [if_neg hzero, if_neg hzero, putChar_refused c s (hr hlt)]
      rfl

/-- PUTSTR in one stroke: the characters up to the first undrawn byte, then the status of that byte (R79, R106). -/
theorem exec_putstr_run (hs : Inv s) {addr : Ptr} {n : Nat} (hn : addr.toNat + n ≤ 65536)
    (hr : ∀ k < n, Renderable (s.hmem.read (addr.toNat + k)))
    (hstop : addr.toNat + n < 65536 → ¬ Renderable (s.hmem.read (addr.toNat + n))) :
    exec (.putstr addr) s =
      .next (answered (drawnText n addr.toNat s) (endStatus s.hmem (addr.toNat + n)) 0) := by
  obtain ⟨-, -, -, -, hmem, -⟩ := (drawnText_drawsText n addr.toNat s).frame
  rw [← hmem] at hstop ⊢
  calc exec (.putstr addr) s = .next (putStrLoop Config.chip (65536 - (addr.toNat + n) + n) addr.toNat s) := by
        rw [show 65536 - (addr.toNat + n) + n = 65536 - addr.toNat by omega]; rfl
    _ = _ := by rw [putStrLoop_drawnText hs n _ _ hr, putStrLoop_stops _ hn hstop]

/-- A byte without a glyph ends PUTSTR at once; no invariant is needed (R79). -/
theorem exec_putstr_stops {addr : Ptr} (hr : ¬ Renderable (s.hmem.read addr.toNat)) :
    exec (.putstr addr) s = .next (answered s (endStatus s.hmem addr.toNat) 0) :=
  congrArg _ (putStrLoop_stops Config.chip addr.isLt.le fun _ => hr)

/-- A character is drawn, and the loop goes on at the next address (R79). -/
theorem exec_putstr_drawn (hs : Inv s) {addr : Ptr} (hr : Renderable (s.hmem.read addr.toNat)) :
    exec (.putstr addr) s = .next (putStrLoop Config.chip (65535 - addr.toNat) (addr.toNat + 1)
      (drawn Config.chip (s.hmem.read addr.toNat) s)) := by
  obtain ⟨hx, hy, -⟩ := hs
  have hremaining : 65536 - addr.toNat = 65535 - addr.toNat + 1 := by have := addr.isLt; omega
  rw [← putStrLoop_drawn _ _ _ hr (cell_accepted hx hy), ← hremaining]
  rfl

/-- HMEM holds a first byte without a glyph from `q` on, or none up to its end. -/
theorem exists_first_undrawn (m : Memory) {q : Nat} (hq : q ≤ 65536) : ∃ n, q + n ≤ 65536 ∧
    (∀ k < n, Renderable (m.read (q + k))) ∧ (q + n < 65536 → ¬ Renderable (m.read (q + n))) := by
  have hex : ∃ n, q + n < 65536 → ¬ Renderable (m.read (q + n)) := ⟨65536 - q, fun h => absurd h (by omega)⟩
  have hdrawn : ∀ k < Nat.find hex, q + k < 65536 ∧ Renderable (m.read (q + k)) := fun k hk => by
    simpa only [Classical.not_imp, not_not] using Nat.find_min hex hk
  refine ⟨Nat.find hex, ?_, fun k hk => (hdrawn k hk).2, Nat.find_spec hex⟩
  by_contra hpast
  exact absurd (hdrawn (65536 - q) (by omega)).1 (by omega)

/-- R82: in the default window the text from the origin stands at the cell its length gives. -/
theorem drawnText_grid (hs : Inv s) (hx : s.curX = 0) (hy : s.curY = 0) (hw : s.winW.toNat = 84)
    (hh : s.winH.toNat = 48) (n q : Nat) :
    (drawnText n q s).curX.toNat = 6 * (n % 14) ∧ (drawnText n q s).curY.toNat = 8 * (n / 14 % 6) := by
  induction n with
  | zero => simp [drawnText, hx, hy]
  | succ n ih =>
    have htext := drawnText_drawsText n q s
    obtain ⟨-, hwn, hhn, -⟩ := htext.frame
    have hcursor := drawn_cursor Config.chip (s.hmem.read (q + n)) (htext.inv hs)
    rw [ih.1, ih.2, hwn, hhn, hw, hh, advance_grid] at hcursor
    exact hcursor

/-! ### SETCUR and CLEAR -/

/-- One axis of SETCUR: the cell's position if the cell fits, else the register as it was (R80). -/
theorem setcur_axis {size extent : Nat} (hsize : 0 < size) (hextent : extent ≤ 256) (cell old : Byte) :
    (cell.toNat * size + size ≤ extent →
      (BitVec.ofNat 8 ((cellPosition cell.toNat size extent).getD old.toNat)).toNat = cell.toNat * size) ∧
    (extent < cell.toNat * size + size →
      BitVec.ofNat 8 ((cellPosition cell.toNat size extent).getD old.toNat) = old) := by
  refine ⟨fun hfits => ?_, fun hover => ?_⟩
  · rw [cellPosition, if_pos hfits, Option.getD_some, BitVec.toNat_ofNat]
    exact Nat.mod_eq_of_lt (by omega)
  · rw [cellPosition, if_neg (Nat.not_le.mpr hover), Option.getD_none]
    simp

theorem exec_clear_eq (s : State) : exec .clear s = .next
    (((((s.send (packet Config.chip 0 0 84 48)).setWindowSize 84 48).setCursor 0 0).send
      (streamItems none 84 48)).respond 0) :=
  congrArg (fun r : Attempt => finish s (r.map (streamWindow none))) (resetWindow_eq Config.chip s)

end Sys2Proof.Machine
end

section
/-! The statements about the glyph ROM and row sequencer (43_glyph_text_engine.md). -/

namespace Sys2Proof

open Sys2Proof.Machine

/-- Settles O23: what PUTCHAR leaves is `drawn`, whose items are the cell's stream and whose cursor is `advance`'s. -/
theorem putcharDrawsTheCellAndAdvances : Obligations.PutcharDrawsTheCellAndAdvances := by
  intro code s
  refine ⟨decode_encode (i := .putchar code) rfl, fun hs hr => ?_, exec_putchar_refused⟩
  obtain ⟨hx, hy⟩ := drawn_cursor Config.chip code hs
  rw [advance_eq] at hx hy
  exact ⟨_, _, _, exec_putchar_renderable hs hr, streamItems_length _ _ _, glyphItems_isStream _ _, hx, hy⟩

/-- Settles O24: one turn of the loop, whose state after a character is `drawn`. -/
theorem putstrAppliesPutcharInTurn : Obligations.PutstrAppliesPutcharInTurn := by
  intro addr s ch
  refine ⟨decode_encode (i := .putstr addr) rfl, fun hzero => ?_, fun hne hr => ?_, fun hs hr =>
    ⟨drawn Config.chip ch s, drawn_inv _ ch hs, rfl, rfl, exec_putchar_renderable hs hr, fun hlt => ?_,
      fun hlast => ?_⟩⟩
  · rw [exec_putstr_stops (not_renderable_of_eq_zero hzero), endStatus, if_neg addr.isLt.ne, if_pos hzero]
  · rw [exec_putstr_stops hr, endStatus, if_neg addr.isLt.ne, if_neg hne]
  · have hnext : (addr + 1).toNat = addr.toNat + 1 := by bv_omega
    rw [exec_putstr_drawn hs hr, show 65535 - addr.toNat = 65536 - (addr + 1).toNat by omega, ← hnext]
    rfl
  · have hend : 65535 - addr.toNat = 0 := by omega
    rw [exec_putstr_drawn hs hr, hend]
    rfl

/-- Settles O25: the loop runs to the first byte it does not draw. -/
theorem putstrStopsAtTheFirstUndrawnByte : Obligations.PutstrStopsAtTheFirstUndrawnByte := by
  intro addr s hs
  obtain ⟨n, hn, hr, hstop⟩ := exists_first_undrawn s.hmem addr.isLt.le
  obtain ⟨x, y, items, hlen, heq⟩ := drawnText_eq n addr.toNat s
  refine ⟨n, x, y, items, _, ?_, hn, hr, hstop, rfl, hlen⟩
  rw [exec_putstr_run hs hn hr hstop, heq]
  rfl

/-- Settles O26: the terminator is the first byte not drawn, and the cursor follows the grid cell by cell. -/
theorem textFillsTheGrid : Obligations.TextFillsTheGrid := by
  intro n addr s hs hx hy hw hh hn hr hzero
  have hrun := exec_putstr_run hs hn.le hr fun _ => not_renderable_of_eq_zero hzero
  rw [endStatus, if_neg hn.ne, if_pos hzero] at hrun
  obtain ⟨hcx, hcy⟩ := drawnText_grid hs hx hy (hw ▸ rfl) (hh ▸ rfl) n addr.toNat
  refine ⟨_, hrun, hcx, hcy, ?_⟩
  obtain ⟨x, y, items, hlen, heq⟩ := drawnText_eq n addr.toNat s
  simp [heq, hlen]

/-- Settles O27: SETCUR answers OK from the two axes taken on their own. -/
theorem setcurAppliesEachAxisAlone : Obligations.SetcurAppliesEachAxisAlone := by
  intro cx cy s
  obtain ⟨hxfits, hxover⟩ := setcur_axis (size := 6) (extent := 84) (by decide) (by decide) cx s.curX
  obtain ⟨hyfits, hyover⟩ := setcur_axis (size := 8) (extent := 48) (by decide) (by decide) cy s.curY
  exact ⟨decode_encode (i := .setcur cx cy) rfl, _, _, rfl, hxfits, hxover, hyfits, hyover, by omega, by omega⟩

/-- Settles O28: the default window is always accepted, and a stream without a source is white. -/
theorem clearBlanksThePanel : Obligations.ClearBlanksThePanel := by
  intro s
  refine ⟨decode_encode (i := .clear) rfl, ?_⟩
  rw [exec_clear_eq, streamItems_none, ← List.append_assoc]
  rfl

end Sys2Proof
end

section
/-! SUPPORT. What IMPBMP answers at each of its checks (R87, R90, R91), and how an import depends on HMEM and on FB. -/

namespace Sys2Proof.Machine

/-! ### The checks -/

theorem importGeometryOk_iff {xpos ypos : Nat} {b : BitmapHeader} : importGeometryOk xpos ypos b = true ↔
    0 < b.height ∧ b.width % 2 = 0 ∧ xpos + b.width ≤ 84 ∧ b.height ≤ ypos + 1 ∧ ypos ≤ 47 := by
  simp [importGeometryOk, Nat.pos_iff_ne_zero, and_assoc]

theorem importDataReadable_iff {addr : Nat} {b : BitmapHeader} : importDataReadable addr b = true ↔
    (0 < b.width → addr + b.doff + (b.height - 1) * rowStride b.width + b.width / 2 - 1 ≤ 65535) := by
  simp [importDataReadable, Nat.pos_iff_ne_zero, or_iff_not_imp_left]

/-! ### The answer at each check, in the order of R91 -/

section Answers

variable {xpos ypos thr : Byte} {addr : Ptr} {s : State} {b : BitmapHeader}

theorem exec_impbmp_headerPastMemory (h1 : ¬ addr.toNat + 22 ≤ 65535) :
    exec (.impbmp xpos ypos thr addr) s = .next (answered s .addressError 0) :=
  congrArg (finish s) (if_pos (Nat.not_le.mp h1))

theorem exec_impbmp_badGeometry (hb : readHeader s.hmem addr.toNat = b) (h1 : addr.toNat + 22 ≤ 65535)
    (hp : ¬ importGeometryOk xpos.toNat ypos.toNat b = true) :
    exec (.impbmp xpos ypos thr addr) s = .next (answered s .geometryError 0) := by
  subst hb
  exact congrArg (finish s) ((if_neg (Nat.not_lt.mpr h1)).trans (if_pos hp))

theorem exec_impbmp_dataPastMemory (hb : readHeader s.hmem addr.toNat = b) (h1 : addr.toNat + 22 ≤ 65535)
    (hp : importGeometryOk xpos.toNat ypos.toNat b = true) (h2 : ¬ importDataReadable addr.toNat b = true) :
    exec (.impbmp xpos ypos thr addr) s = .next (answered s .addressError 0) := by
  subst hb
  exact congrArg (finish s) ((if_neg (Nat.not_lt.mpr h1)).trans ((if_neg (not_not.mpr hp)).trans (if_pos h2)))

theorem exec_impbmp_accepted (hb : readHeader s.hmem addr.toNat = b) (h1 : addr.toNat + 22 ≤ 65535)
    (hp : importGeometryOk xpos.toNat ypos.toNat b = true) (h2 : importDataReadable addr.toNat b = true) :
    exec (.impbmp xpos ypos thr addr) s = .next ((s.setFb
      (importRows s.hmem addr.toNat xpos.toNat ypos.toNat (clamp thr.toNat 0 14) b s.fb)).respond 0) := by
  subst hb
  exact congrArg (finish s)
    ((if_neg (Nat.not_lt.mpr h1)).trans ((if_neg (not_not.mpr hp)).trans (if_neg (not_not.mpr h2))))

end Answers

/-- The header alone decides how an import ends: with one error in every state that holds it, or with its rows written
in every one (R91). -/
theorem exec_impbmp_cases (xpos ypos thr : Byte) (addr : Ptr) (b : BitmapHeader) :
    (∃ e, ∀ s : State, readHeader s.hmem addr.toNat = b →
      exec (.impbmp xpos ypos thr addr) s = .next (answered s e 0)) ∨
    importGeometryOk xpos.toNat ypos.toNat b = true ∧ ∀ s : State, readHeader s.hmem addr.toNat = b →
      exec (.impbmp xpos ypos thr addr) s = .next ((s.setFb
        (importRows s.hmem addr.toNat xpos.toNat ypos.toNat (clamp thr.toNat 0 14) b s.fb)).respond 0) := by
  by_cases h1 : addr.toNat + 22 ≤ 65535
  · by_cases hp : importGeometryOk xpos.toNat ypos.toNat b = true
    · by_cases h2 : importDataReadable addr.toNat b = true
      · exact .inr ⟨hp, fun _ hb => exec_impbmp_accepted hb h1 hp h2⟩
      · exact .inl ⟨_, fun _ hb => exec_impbmp_dataPastMemory hb h1 hp h2⟩
    · exact .inl ⟨_, fun _ hb => exec_impbmp_badGeometry hb h1 hp⟩
  · exact .inl ⟨_, fun _ _ => exec_impbmp_headerPastMemory h1⟩

/-! ### The rows -/

/-- The threshold is compared as its value or 14, whichever is less (R88). -/
theorem clamp_zero_eq_min (t hi : Nat) : clamp t 0 hi = min t hi := by
  rw [clamp, if_neg (Nat.not_lt_zero t)]
  split <;> omega

/-- What an import writes does not depend on what was there: writing it again changes nothing (R93). -/
theorem importRows_importRows (m : Memory) (addr t : Nat) {xpos ypos : Nat} {b : BitmapHeader} (fb : Framebuffer)
    (hb : importGeometryOk xpos ypos b = true) :
    importRows m addr xpos ypos t b (importRows m addr xpos ypos t b fb) = importRows m addr xpos ypos t b fb := by
  refine framebuffer_ext fun x hx y _ => ?_
  simp only [fbReadBit_importRows _ _ _ _ _ hb hx]
  split <;> rfl

/-- The rows are read from their `width / 2` data bytes each, and from no other byte of HMEM (R86). -/
theorem importRows_congr {m m' : Memory} {addr : Nat} (xpos ypos t : Nat) {b : BitmapHeader} (fb : Framebuffer)
    (h : ∀ r < b.height, ∀ k < b.width / 2, m.read (addr + b.doff + r * rowStride b.width + k) =
      m'.read (addr + b.doff + r * rowStride b.width + k)) :
    importRows m addr xpos ypos t b fb = importRows m' addr xpos ypos t b fb := by
  refine List.foldl_ext _ _ _ fun fb r hr => List.foldl_ext _ _ _ fun fb k hk => ?_
  rw [h r (List.mem_range.mp hr) k (List.mem_range.mp hk)]

end Sys2Proof.Machine
end

section
/-! The statements about the bitmap transcoder (44_bitmap_transcoder.md). -/

namespace Sys2Proof

open Sys2Proof.Machine

/-- Settles O29: an accepted import writes its rows, and each pixel read after them is its own sample or as before. -/
theorem impbmpWritesTheTargetRectangle : Obligations.ImpbmpWritesTheTargetRectangle := by
  intro xpos ypos thr addr s byteAt doff width height stride nibble h1 hh hw hx hy hy47 h2
  have hp := importGeometryOk_iff (b := readHeader s.hmem addr.toNat).mpr ⟨hh, hw, hx, hy, hy47⟩
  refine ⟨_, exec_impbmp_accepted rfl h1 hp (importDataReadable_iff.mpr h2), fun x hx84 y _ => ?_⟩
  refine (fbReadBit_importRows _ _ _ _ _ hp hx84).trans (if_congr and_assoc ?_ rfl)
  rw [clamp_zero_eq_min, Nat.add_assoc addr.toNat, Nat.add_assoc addr.toNat]
  rfl

/-- Settles O30: the answers of IMPBMP, one after the other. -/
theorem impbmpChecksInOrder : Obligations.ImpbmpChecksInOrder := by
  intro xpos ypos thr addr s byteAt doff width height a1 p a2
  have hp : importGeometryOk xpos.toNat ypos.toNat (readHeader s.hmem addr.toNat) = true ↔ p := importGeometryOk_iff
  have h2 : importDataReadable addr.toNat (readHeader s.hmem addr.toNat) = true ↔ a2 := importDataReadable_iff
  rw [← hp, ← h2]
  exact ⟨decode_encode (i := .impbmp xpos ypos thr addr) rfl, exec_impbmp_headerPastMemory,
    exec_impbmp_badGeometry rfl, exec_impbmp_dataPastMemory rfl, fun h1 hp h2 => ⟨_, exec_impbmp_accepted rfl h1 hp h2⟩⟩

/-- Settles O31: the second import finds the header of the first, so it ends the same way, and its rows are written
already. -/
theorem impbmpIsIdempotent : Obligations.ImpbmpIsIdempotent := by
  intro xpos ypos thr addr s t ht
  obtain ⟨e, herror⟩ | ⟨hp, hok⟩ := exec_impbmp_cases xpos ypos thr addr (readHeader s.hmem addr.toNat)
  · obtain rfl := Host.Outcome.next.inj ((herror s rfl).symm.trans ht)
    exact ⟨_, herror _ rfl, rfl⟩
  · obtain rfl := Host.Outcome.next.inj ((hok s rfl).symm.trans ht)
    exact ⟨_, hok _ rfl, importRows_importRows _ _ _ _ hp⟩

/-- Settles O32: the two memories hold one header, so both imports end the same way, and write the same rows. -/
theorem impbmpReadsOnlyHeaderAndData : Obligations.ImpbmpReadsOnlyHeaderAndData := by
  intro xpos ypos thr addr s m hheader hdata
  have hb : readHeader m addr.toNat = readHeader s.hmem addr.toNat := by
    rw [readHeader, hheader 10 (by decide), hheader 18 (by decide), hheader 22 (by decide), readHeader]
  obtain ⟨e, herror⟩ | ⟨-, hok⟩ := exec_impbmp_cases xpos ypos thr addr (readHeader s.hmem addr.toNat)
  · exact ⟨s.fb, e, herror s rfl, herror { s with hmem := m } hb⟩
  · refine ⟨_, .ok, hok s rfl, (hok { s with hmem := m } hb).trans ?_⟩
    rw [importRows_congr (m' := s.hmem) _ _ _ _ fun r hr k hk => ?_]
    · rfl
    · rw [Nat.add_assoc addr.toNat, Nat.add_assoc addr.toNat]
      exact hdata r hr k hk

end Sys2Proof
end

section
/-! SUPPORT. What the flush that DRAWFULL and DISPBUF share leaves (R97, R98), and what the two answer. -/

namespace Sys2Proof.Machine

/-! ### The flush -/

/-- The state a flush of `bytes` leaves on the chip. -/
def flushed (bytes : List Byte) (s : State) : State :=
  (((s.send (packet Config.chip 0 0 84 48)).setWindowSize 84 48).homeCursorIf Config.chip.drawfullResetsCursor).send
    (streamItems (some bytes) 84 48)

theorem flushed_respond (bytes : List Byte) (s : State) : (flushed bytes s).respond 0 =
    { s with
      curX := if Config.chip.drawfullResetsCursor then 0 else s.curX
      curY := if Config.chip.drawfullResetsCursor then 0 else s.curY
      winW := 84
      winH := 48
      tx := s.tx ++ (packet Config.chip 0 0 84 48 ++ streamItems (some bytes) 84 48)
      responses := s.responses ++ [⟨.ok, 0⟩] } := by
  rw [flushed, State.homeCursorIf_eq, ← List.append_assoc]
  rfl

/-- The full window reads the 504 bytes of a whole image (R69). -/
theorem srcLen_full : srcLen 84 48 = 504 := rfl

/-- The stream of the full window, pixel by pixel (R68, R70). -/
theorem fullStream_isStream {bytes : List Byte} {pix : Nat → Nat → Bool}
    (hpix : ∀ px < 84, ∀ py < 48, samplePixel (some bytes) 84 px py = pix px py) :
    IsStream (streamItems (some bytes) 84 48) 84 48 pix :=
  isStream_congr (streamItems_isStream (some bytes) (by decide) 48) hpix

/-- Bytes of HMEM that are those of FB, one by one, are FB as a source (R98). -/
theorem hmemBytes_eq_toList {s : State} {addr : Nat} (hcopy : ∀ k < 504, s.hmem.read (addr + k) = fbReadByte s.fb k) :
    hmemBytes s addr 504 = s.fb.toList := by
  refine List.ext_getElem (by simp) fun k hk hk' => ?_
  have hk504 : k < 504 := by simpa using hk
  rw [← List.getD_eq_getElem _ 0 hk, ← List.getD_eq_getElem _ 0 hk', hmemBytes_getD s addr 504 k hk504,
    fbReadByte_toList, hcopy k hk504]

/-! ### DRAWFULL and DISPBUF -/

variable (s : State)

theorem exec_drawfull_eq (addr : Ptr) : exec (.drawfull addr) s = drawfullOp Config.chip addr s := rfl

theorem exec_drawfull_inMemory {addr : Ptr} (hend : addr.toNat + 504 ≤ 65536) :
    exec (.drawfull addr) s = .next ((flushed (hmemBytes s addr.toNat 504) s).respond 0) := by
  rw [exec_drawfull_eq, drawfullOp, if_neg (Nat.not_lt.mpr hend), flush_eq, finish_ok, flushed]

theorem exec_drawfull_pastMemory {addr : Ptr} (hend : 65536 < addr.toNat + 504) :
    exec (.drawfull addr) s = .next (answered s .addressError 0) := by
  rw [exec_drawfull_eq, drawfullOp, if_pos hend, finish_error, answered_eq_raise]

theorem exec_dispbuf_eq : exec .dispbuf s = .next ((flushed s.fb.toList s).respond 0) :=
  congrArg (finish s) (flush_eq Config.chip s.fb.toList s)

end Sys2Proof.Machine
end

section
/-! The statements about the compatibility surface (45_compat_surface.md). -/

namespace Sys2Proof

open Sys2Proof.Machine

/-- Settles O33: INIT has no check, so it answers OK from what it sends and sets. -/
theorem initSendsTheBringUpAndHomes : Obligations.InitSendsTheBringUpAndHomes := fun _ =>
  ⟨decode_encode (i := .init) rfl, rfl⟩

/-- Settles O34: DRAWFULL is the flush of the 504 bytes at `addr`, after its one check. -/
theorem drawfullSendsTheBuffer : Obligations.DrawfullSendsTheBuffer := by
  intro addr s
  refine ⟨decode_encode (i := .drawfull addr) rfl, exec_drawfull_pastMemory s, fun hend => ?_⟩
  refine ⟨streamItems (some (hmemBytes s addr.toNat 504)) 84 48, fullStream_isStream fun px hpx py hpy => ?_,
    streamItems_length _ 84 48, ?_⟩
  · rw [← srcLen_full, samplePixel_hmemBytes s addr.toNat hpx hpy]
  · rw [exec_drawfull_inMemory s hend, flushed_respond]

/-- Settles O35: DISPBUF is the flush of FB; SETWIN 0, 0, 84, 48 sends its packet, and after it STREAM FB, in its domain,
the same stream. -/
theorem dispbufIsSetwinThenStreamFb : Obligations.DispbufIsSetwinThenStreamFb := by
  intro s
  have hexec := exec_dispbuf_eq s
  rw [flushed_respond] at hexec
  refine ⟨_, _, _, decode_encode (i := .dispbuf) rfl, fullStream_isStream fun px _ py _ => ?_,
    streamItems_length _ 84 48, hexec, exec_setwin_accepted s (by decide), exec_streamFb_inDomain rfl srcLen_full.le, ?_⟩
  · exact samplePixel_framebuffer s 84 px py
  · rw [hexec, ← List.append_assoc]
    rfl

/-- Settles O36: the two flush the same bytes. -/
theorem drawfullOfACopyIsDispbuf : Obligations.DrawfullOfACopyIsDispbuf := by
  intro addr s hend hcopy
  rw [exec_drawfull_inMemory s hend, exec_dispbuf_eq, hmemBytes_eq_toList hcopy]

end Sys2Proof
end

section
/-! SUPPORT. How an operation ends (R100, R106): every move is answered, and an error is raised on the state as it was. -/

namespace Sys2Proof.Machine

variable {s : State}

/-- Under the invariant every move of the host is answered: a request by `acceptRequest_answers`, a write of HMEM and a
reset always (R24, R113). -/
theorem takeMove_answers (m : HostMove) (h : Inv s) : ∃ t, takeMove m s = .next t := by
  cases m with
  | request w =>
    obtain ⟨t, ht, -⟩ := acceptRequest_answers w h
    exact ⟨t, ht⟩
  | hmemWrite a v => exact ⟨s.hostWrite a v, rfl⟩
  | reset => exact ⟨s.resetBlock, rfl⟩

/-- Where the outcome is a next state, it ends in an OK response, or in an error raised on `s` itself (R106 point 3). -/
def RespondsOrRaises (s : State) (o : Host.Outcome State Fault Refusal) : Prop :=
  ∀ t, o = .next t → (∃ (u : State) (d : Byte), t = u.respond d) ∨ ∃ e, t = s.raise e

theorem respond_respondsOrRaises (u : State) (d : Byte) : RespondsOrRaises s (.next (u.respond d)) := by
  rintro _ ⟨⟩
  exact .inl ⟨u, d, rfl⟩

theorem raise_respondsOrRaises (e : Status) : RespondsOrRaises s (.next (s.raise e)) := by
  rintro _ ⟨⟩
  exact .inr ⟨e, rfl⟩

theorem finish_respondsOrRaises (r : Attempt) : RespondsOrRaises s (finish s r) := by
  cases r with
  | ok u => exact respond_respondsOrRaises u 0
  | error e => exact raise_respondsOrRaises e

/-- Every operation but PUTSTR, whose error is raised on what the characters before it left (R106). -/
theorem exec_respondsOrRaises {i : Instr} (hi : ∀ addr, i ≠ .putstr addr) : RespondsOrRaises s (exec i s) := by
  cases i with
  | pxget x y =>
    show RespondsOrRaises s (execPxget x y s)
    unfold execPxget
    split
    · exact respond_respondsOrRaises s _
    · exact raise_respondsOrRaises _
  | fbrd idx =>
    show RespondsOrRaises s (execFbrd idx s)
    unfold execFbrd
    split
    · exact raise_respondsOrRaises _
    · exact respond_respondsOrRaises s _
  | streamFb =>
    show RespondsOrRaises s (execStreamFb s)
    unfold execStreamFb
    split
    · exact finish_respondsOrRaises _
    · split
      · rintro _ ⟨⟩
      · exact finish_respondsOrRaises _
  | putstr addr => exact absurd rfl (hi addr)
  | pxset | pxclr | fbwr | setwin | streamHmem | putchar | impbmp => exact finish_respondsOrRaises _
  | streamNone | setcur | init => exact respond_respondsOrRaises _ 0
  | rstwin =>
    rw [exec_rstwin_eq]
    exact respond_respondsOrRaises _ 0
  | clear =>
    rw [exec_clear_eq]
    exact respond_respondsOrRaises _ 0
  | dispbuf =>
    rw [exec_dispbuf_eq]
    exact respond_respondsOrRaises _ 0
  | drawfull addr =>
    rw [exec_drawfull_eq, drawfullOp]
    exact finish_respondsOrRaises _

/-- The last response of a record is determined by the record. -/
theorem response_eq_of_append {rs rs' : List Response} {r r' : Response} (h : rs ++ [r] = rs' ++ [r']) : r = r' :=
  List.singleton_inj.mp (List.append_inj_right' h rfl)

end Sys2Proof.Machine
end

section
/-! The statements about error delivery and the idle block (60_exceptions.md). -/

namespace Sys2Proof

open Sys2Proof.Machine

/-- Settles O8: `Memory.write` keeps the canonical form and changes what is read at its own address alone. -/
theorem hostMovesBetweenOperations : Obligations.HostMovesBetweenOperations :=
  ⟨fun _ => step_idle, fun _ a v _ hhost hwf =>
    ⟨_, step_move hhost, Memory.wf_write hwf a v, fun b => Memory.read_write a.toNat v b hwf⟩⟩

/-- Settles O39: the idle block keeps its state, and a pending move is answered. -/
theorem noStepStopsTheMachine : Obligations.NoStepStopsTheMachine := by
  intro s h
  cases hhost : s.host with
  | nil => exact ⟨s, step_idle hhost⟩
  | cons m rest =>
    obtain ⟨t, ht⟩ := takeMove_answers (s := { s with host := rest }) m h
    exact ⟨t, (step_move hhost).trans ht⟩

/-- Settles O42: an answer with an error is no OK response, so it is one raised on the state before. -/
theorem errorsChangeNothingButPutstr : Obligations.ErrorsChangeNothingButPutstr := by
  intro i s t e d hi ht hresp he
  obtain ⟨u, d', rfl⟩ | ⟨e', rfl⟩ := exec_respondsOrRaises hi t ht
  · have hok : (⟨.ok, d'⟩ : Response) = ⟨e, d⟩ := response_eq_of_append hresp
    exact absurd (congrArg Response.status hok).symm he
  · have heq : (⟨e', 0⟩ : Response) = ⟨e, d⟩ := response_eq_of_append hresp
    obtain rfl : e' = e := congrArg Response.status heq
    rfl

/-- Settles O43: SETCUR and INIT have no check, and the default window that the other three set passes SetWindow's. -/
theorem fiveOperationsAlwaysAnswerOk : Obligations.FiveOperationsAlwaysAnswerOk := by
  rintro i s (rfl | ⟨cx, cy, rfl⟩ | rfl | rfl | rfl)
  · exact ⟨_, exec_rstwin_eq s, rfl⟩
  · exact ⟨_, rfl, rfl⟩
  · exact ⟨_, exec_clear_eq s, rfl⟩
  · exact ⟨_, rfl, rfl⟩
  · exact ⟨_, exec_dispbuf_eq s, rfl⟩

end Sys2Proof
end

section
/-! SUPPORT. How many items texts, streams and flushes send (R122), and what a STREAM answered OK has done. -/

namespace Sys2Proof.Machine

variable {s : State}

/-- Every character of a text sends the 83 items of a glyph (R76). -/
theorem DrawsText.tx_length {t : State} (h : DrawsText s t) : ∃ n, t.tx.length = s.tx.length + 83 * n := by
  induction h with
  | refl => exact ⟨0, rfl⟩
  | tail _ hdraw ih =>
    obtain ⟨code, rfl⟩ := hdraw
    obtain ⟨n, hn⟩ := ih
    exact ⟨n + 1, by rw [drawn_tx_length, hn, Nat.mul_succ, Nat.add_assoc]⟩

/-- A stream sends one and a half items a pixel; the window has an even width (R35, R70). -/
theorem streamWindow_tx_length (src : Source) (hw : WindowWidthOk s) :
    2 * (streamWindow src s).tx.length = 2 * s.tx.length + 3 * (s.winW.toNat * s.winH.toNat) := by
  have hpairs : 2 * (s.winW.toNat * s.winH.toNat / 2) = s.winW.toNat * s.winH.toNat :=
    Nat.mul_div_cancel' (Dvd.dvd.mul_right (Nat.dvd_of_mod_eq_zero hw.1) _)
  rw [streamWindow_eq, State.send_tx, List.length_append, streamItems_length]
  omega

theorem flushed_tx_length (bytes : List Byte) (s : State) :
    (flushed bytes s).tx.length = s.tx.length + 6059 := by
  simp [flushed, State.homeCursorIf_eq]

/-- An operation that answers an error does not answer OK. -/
theorem not_ok_of_error {i : Instr} {t : State} {e : Status} {d : Byte}
    (herror : exec i s = .next (answered s e 0)) (he : e ≠ .ok) (ht : exec i s = .next t)
    (hresp : t.responses = s.responses ++ [⟨.ok, d⟩]) : False := by
  obtain rfl := Host.Outcome.next.inj (herror.symm.trans ht)
  exact he (congrArg Response.status (response_eq_of_append hresp))

/-- Where a STREAM answers OK, it has streamed the window, from whatever source it has (R71). -/
theorem exec_streams_ok {i : Instr} {t : State} {d : Byte} (hi : windowUse i = .streams) (hs : Inv s)
    (ht : exec i s = .next t) (hresp : t.responses = s.responses ++ [⟨.ok, d⟩]) :
    ∃ src, t = (streamWindow src s).respond 0 := by
  have streamed {src} (h : exec i s = .next ((streamWindow src s).respond 0)) :
      ∃ src, t = (streamWindow src s).respond 0 := ⟨src, Host.Outcome.next.inj (ht.symm.trans h)⟩
  obtain ⟨-, -, hw, hh, -⟩ := hs
  cases i with
  | streamNone => exact streamed exec_streamNone_eq
  | streamFb =>
    by_cases hdom : streamDomainOk s.winW.toNat s.winH.toNat = true
    · exact streamed (exec_streamFb_inDomain hdom (srcLen_le hw.2.2 hh.2 hdom))
    · exact (not_ok_of_error (exec_streamFb_outsideDomain hdom) (by decide) ht hresp).elim
  | streamHmem addr =>
    by_cases hdom : streamDomainOk s.winW.toNat s.winH.toNat = true
    · by_cases hend : addr.toNat + srcLen s.winW.toNat s.winH.toNat ≤ 65536
      · exact streamed (exec_streamHmem_inDomain hdom hend)
      · exact (not_ok_of_error (exec_streamHmem_pastMemory hdom (Nat.not_le.mp hend)) (by decide) ht hresp).elim
    · exact (not_ok_of_error (exec_streamHmem_outsideDomain hdom) (by decide) ht hresp).elim
  | _ => cases hi

end Sys2Proof.Machine
end

section
/-! SUPPORT. The host's discipline of R115 along a run: while a window packet is fresh, TX ends with it. -/

namespace Sys2Proof.Machine

variable {s t : State} {m : HostMove} {rest : List HostMove} {fresh : Bool}

/-! ### What a move leaves and sends -/

/-- Everything a request can do: an illegal word is raised, a legal one performed (R44, R45). -/
theorem acceptRequest_next {w : Request} (ht : acceptRequest w s = .next t) :
    t = s.raise .illegalRequest ∨ ∃ i, decode w = .legal i ∧ exec i s = .next t := by
  cases hw : decode w with
  | illegal why => exact .inl (Host.Outcome.next.inj ((acceptRequest_illegal hw).symm.trans ht)).symm
  | legal i => exact .inr ⟨i, rfl, (acceptRequest_legal hw).symm.trans ht⟩

/-- No move touches the host's further moves (R29, R111). -/
theorem takeMove_host (ht : takeMove m s = .next t) : t.host = s.host := by
  cases m with
  | request w =>
    obtain rfl | ⟨i, -, hexec⟩ := acceptRequest_next ht
    · rfl
    · obtain ⟨-, hhost, -⟩ := onlyTheListedOperationsWrite i s t hexec
      exact hhost
  | hmemWrite a v => exact Host.Outcome.next.inj ht ▸ rfl
  | reset => exact Host.Outcome.next.inj ht ▸ s.resetBlock_host

/-- TX only grows, but for a reset (R23, R29). -/
theorem takeMove_tx_append (hm : m ≠ .reset) (ht : takeMove m s = .next t) : ∃ items, t.tx = s.tx ++ items := by
  cases m with
  | request w =>
    obtain rfl | ⟨i, -, hexec⟩ := acceptRequest_next ht
    · exact ⟨[], by simp⟩
    · obtain ⟨items, rs, hhist⟩ := historyIsNeverRead i s t hexec
      exact ⟨items, congrArg State.tx (Host.Outcome.next.inj (hexec.symm.trans (hhist s.tx s.responses)))⟩
  | hmemWrite a v => exact ⟨[], by rw [← Host.Outcome.next.inj ht]; simp⟩
  | reset => exact absurd rfl hm

/-- A move that leaves TX as long as it was has sent nothing. -/
theorem takeMove_tx_eq (hm : m ≠ .reset) (ht : takeMove m s = .next t) (hlen : t.tx.length = s.tx.length) :
    t.tx = s.tx := by
  obtain ⟨items, hitems⟩ := takeMove_tx_append hm ht
  have hnone : items = [] := by simpa [hitems] using hlen
  rw [hitems, hnone, List.append_nil]

/-! ### The window packet at the end of TX -/

/-- TX ends with the packet of a rectangle of the screen that is WIN_W by WIN_H (R61). -/
def EndsInPacket (s : State) : Prop :=
  ∃ x y before, x + s.winW.toNat ≤ 84 ∧ y + s.winH.toNat ≤ 48 ∧
    s.tx = before ++ packet Config.chip x y s.winW.toNat s.winH.toNat

/-- What is neither in TX nor a window register does not matter. -/
theorem EndsInPacket.congr (h : EndsInPacket s) (htx : t.tx = s.tx) (hw : t.winW = s.winW) (hh : t.winH = s.winH) :
    EndsInPacket t := by
  rwa [EndsInPacket, htx, hw, hh]

theorem windowUse_sets {i : Instr} (h : windowUse i = .sets) : (∃ x y w k, i = .setwin x y w k) ∨ i = .rstwin := by
  cases i <;> simp [windowUse] at h ⊢

/-- A SETWIN or RSTWIN that sends anything sends the packet of the window it sets (R62, R64). -/
theorem exec_sets_endsInPacket {i : Instr} (hi : windowUse i = .sets) (ht : exec i s = .next t)
    (hsent : t.tx.length ≠ s.tx.length) : EndsInPacket t := by
  obtain ⟨x, y, w, k, rfl⟩ | rfl := windowUse_sets hi
  · by_cases hok : WindowAccepted x.toNat y.toNat w.toNat k.toNat
    · obtain rfl := Host.Outcome.next.inj ((exec_setwin_accepted s hok).symm.trans ht)
      obtain ⟨-, -, -, hx, hy⟩ := hok
      exact ⟨x.toNat, y.toNat, s.tx, hx, hy, rfl⟩
    · obtain rfl := Host.Outcome.next.inj ((exec_setwin_refused s hok).symm.trans ht)
      exact absurd rfl hsent
  · obtain rfl := Host.Outcome.next.inj ((exec_rstwin_eq s).symm.trans ht)
    exact ⟨0, 0, s.tx, by simp, by simp, by simp⟩

theorem takeMove_sets_endsInPacket (hm : moveUse m = .sets) (ht : takeMove m s = .next t)
    (hsent : t.tx.length ≠ s.tx.length) : EndsInPacket t := by
  cases m with
  | request w =>
    obtain rfl | ⟨i, hw, hexec⟩ := acceptRequest_next ht
    · exact absurd rfl hsent
    · exact exec_sets_endsInPacket (by simpa [moveUse, hw] using hm) hexec hsent
  | hmemWrite a v => cases hm
  | reset => cases hm

/-! ### The discipline -/

/-- A packet is fresh after a move for one of two reasons: the move sent nothing and kept the window of a fresh packet,
or it is a SETWIN or RSTWIN that sent one. -/
theorem freshAfter_cases (h : freshAfter fresh m s t = true) : m ≠ .reset ∧
    (t.tx.length = s.tx.length ∧ fresh = true ∧ t.winW = s.winW ∧ t.winH = s.winH ∨
      t.tx.length ≠ s.tx.length ∧ moveUse m = .sets) := by
  unfold freshAfter at h
  split at h
  · cases h
  · rename_i hm
    split at h
    · rename_i hlen
      simp only [Bool.and_eq_true, beq_iff_eq] at h
      obtain ⟨⟨hfresh, hw⟩, hh⟩ := h
      exact ⟨hm, .inl ⟨hlen, hfresh, hw, hh⟩⟩
    · rename_i hlen
      exact ⟨hm, .inr ⟨hlen, beq_iff_eq.mp h⟩⟩

/-- Where TX ended with a fresh packet, it does so after every move that leaves one fresh. -/
theorem endsInPacket_of_freshAfter (hs : fresh = true → EndsInPacket s) (ht : takeMove m s = .next t)
    (h : freshAfter fresh m s t = true) : EndsInPacket t := by
  obtain ⟨hm, ⟨hlen, hfresh, hw, hh⟩ | ⟨hsent, hsets⟩⟩ := freshAfter_cases h
  · exact (hs hfresh).congr (takeMove_tx_eq hm ht hlen) hw hh
  · exact takeMove_sets_endsInPacket hsets ht hsent

theorem packetedFrom_streams (h : packetedFrom fresh (m :: rest) s = true) (hm : moveUse m = .streams) :
    fresh = true := by
  simp only [packetedFrom, hm, Bool.and_eq_true] at h
  simpa using h.1

theorem packetedFrom_next (h : packetedFrom fresh (m :: rest) s = true)
    (ht : takeMove m { s with host := rest } = .next t) : packetedFrom (freshAfter fresh m s t) rest t = true := by
  simp only [packetedFrom, ht, Bool.and_eq_true] at h
  exact h.2

/-- The invariant of a disciplined run: the pending moves keep R115, and if a packet is fresh, TX ends with it. -/
def Disciplined (s : State) : Prop :=
  ∃ fresh, packetedFrom fresh s.host s = true ∧ (fresh = true → EndsInPacket s)

theorem disciplined_of_streamsPacketed (h : streamsPacketed s = true) : Disciplined s :=
  ⟨false, h, fun hfresh => by cases hfresh⟩

theorem step_disciplined (h : Disciplined s) (ht : step s = .next t) : Disciplined t := by
  obtain ⟨fresh, hpacketed, hends⟩ := h
  cases hhost : s.host with
  | nil =>
    obtain rfl := Host.Outcome.next.inj ((step_idle hhost).symm.trans ht)
    exact ⟨fresh, hpacketed, hends⟩
  | cons m rest =>
    rw [hhost] at hpacketed
    rw [step_move hhost] at ht
    refine ⟨freshAfter fresh m s t, ?_, endsInPacket_of_freshAfter (s := { s with host := rest }) hends ht⟩
    rw [takeMove_host ht]
    exact packetedFrom_next hpacketed ht

/-- A property of states that every step keeps holds at the end of every run, on any machine. -/
theorem run_keeps {M : Host.Core} {P : M.State → Prop} (hstep : ∀ s t, P s → M.step s = .next t → P t) {t : M.State} :
    ∀ (n : Nat) (s : M.State), P s → M.run n s = .next t → P t
  | 0, _, hs, ht => Host.Outcome.next.inj ht ▸ hs
  | n + 1, s, hs, ht => by
    rw [Host.Core.run] at ht
    split at ht
    · rename_i u hu
      exact run_keeps hstep n u (hstep s u hs hu) ht
    · cases ht
    · cases ht

/-- A run that keeps the discipline comes to a STREAM with its packet at the end of TX. -/
theorem Disciplined.endsInPacket (h : Disciplined s) (hhost : s.host = m :: rest) (hm : moveUse m = .streams) :
    EndsInPacket s := by
  obtain ⟨fresh, hpacketed, hends⟩ := h
  rw [hhost] at hpacketed
  exact hends (packetedFrom_streams hpacketed hm)

end Sys2Proof.Machine
end

section
/-! The statements about reset and hazards (70_reset_and_hazards.md). -/

namespace Sys2Proof

open Sys2Proof.Machine

/-- Settles O46: what each operation sends when it answers OK, one case an operation. -/
theorem itemCountsOfEachOperation : Obligations.ItemCountsOfEachOperation := by
  intro i s t d hs ht hresp
  cases i with
  | pxset | pxclr | pxget | fbwr | fbrd | setcur | impbmp =>
    obtain ⟨u, e, d', hperf, rfl⟩ := exec_next ht
    cases hperf <;> rfl
  | setwin x y w h =>
    by_cases hok : WindowAccepted x.toNat y.toNat w.toNat h.toNat
    · obtain rfl := Host.Outcome.next.inj ((exec_setwin_accepted s hok).symm.trans ht)
      simp
    · exact (not_ok_of_error (exec_setwin_refused s hok) (by decide) ht hresp).elim
  | rstwin =>
    obtain rfl := Host.Outcome.next.inj ((exec_rstwin_eq s).symm.trans ht)
    simp
  | streamNone | streamFb | streamHmem =>
    obtain ⟨src, rfl⟩ := exec_streams_ok rfl hs ht hresp
    obtain ⟨-, -, hw, -⟩ := hs
    exact streamWindow_tx_length src hw
  | putchar code =>
    by_cases hr : Renderable code
    · obtain rfl := Host.Outcome.next.inj ((exec_putchar_renderable hs hr).symm.trans ht)
      exact drawn_tx_length Config.chip code s
    · exact (not_ok_of_error (exec_putchar_refused hr) (by decide) ht hresp).elim
  | putstr addr =>
    obtain ⟨u, e, d', hperf, rfl⟩ := exec_next ht
    cases hperf with
    | unchanged => exact ⟨0, rfl⟩
    | putstr _ hdraw => exact hdraw.tx_length
  | clear =>
    obtain rfl := Host.Outcome.next.inj ((exec_clear_eq s).symm.trans ht)
    simp
  | init =>
    obtain rfl := Host.Outcome.next.inj ((initSendsTheBringUpAndHomes s).2.symm.trans ht)
    exact List.length_append
  | drawfull addr =>
    by_cases hend : addr.toNat + 504 ≤ 65536
    · obtain rfl := Host.Outcome.next.inj ((exec_drawfull_inMemory s hend).symm.trans ht)
      exact flushed_tx_length _ s
    · exact (not_ok_of_error (exec_drawfull_pastMemory s (Nat.not_le.mp hend)) (by decide) ht hresp).elim
  | dispbuf =>
    obtain rfl := Host.Outcome.next.inj ((exec_dispbuf_eq s).symm.trans ht)
    exact flushed_tx_length _ s

/-- Settles O49: every step keeps `Disciplined`, under which a STREAM finds its packet at the end of TX. -/
theorem disciplinedStreamsFollowTheirPacket : Obligations.DisciplinedStreamsFollowTheirPacket := by
  intro n s t w rest hs hrun hhost hw
  have ht : Disciplined t :=
    run_keeps (M := core) (P := Disciplined) (fun _ _ => step_disciplined) n s (disciplined_of_streamsPacketed hs) hrun
  have huse : moveUse (.request w) = .streams := by
    obtain hw | hw | ⟨addr, hw⟩ := hw <;> rw [moveUse, hw] <;> rfl
  exact ht.endsInPacket hhost huse

/-- Settles O10: the framebuffer a reset leaves is a fresh one, every byte of it a free value. -/
theorem resetMoveRestartsTheBlock : Obligations.ResetMoveRestartsTheBlock :=
  ⟨fbReadByte_freshFramebuffer 0, fun s _ hhost =>
    ⟨freshFramebuffer s.resets, step_move hhost, fbReadByte_freshFramebuffer s.resets⟩⟩

end Sys2Proof
end
